-- ==== Sys2Proof/Word.lean ====
section
/-! DEFINITION. The word types of the machine (00_scope.md R6, R8). -/

namespace Sys2Proof

/-- A byte: a general register, a memory cell, the sound timer (R6). -/
abbrev Byte := BitVec 8

/-- A 16-bit word: an instruction word, the program counter, the index register, a stack entry (R6). -/
abbrev Word := BitVec 16

/-- A 12-bit address field `nnn` of an instruction word (R8). -/
abbrev Addr := BitVec 12

/-- A four-bit field: the row count `n` of a sprite (R8). -/
abbrev Nibble := BitVec 4

/-- The index of a general register: every 4-bit field value names one (10_state.md R22). -/
abbrev Reg := Fin 16

/-- VF, the register that doubles as the flag (10_state.md R24). -/
abbrev VF : Reg := 15

end Sys2Proof
end

