-- ==== Sys2Proof/Machine/Flags.lean ====
section
/-! DEFINITION. Every flag computation of the machine: the value VF takes in the five instructions that write it
as a flag (10_state.md R24). Each is computed on exact natural numbers. -/

namespace Sys2Proof.Machine

/-- A condition as the flag byte: 1 where it holds, else 0 (R24). -/
def flagByte (c : Bool) : Byte := if c then 1 else 0

/-- ADD: 1 if the sum of the two bytes exceeds 255 (42_alu.md R165). -/
def carryFlag (a b : Byte) : Byte := flagByte (decide (255 < a.toNat + b.toNat))

/-- SUB: 0 if the subtraction borrows, else 1 (R166). -/
def notBorrowFlag (a b : Byte) : Byte := flagByte (decide (b.toNat ≤ a.toNat))

/-- SHR: bit 0 of the byte before the shift (R167). -/
def shiftedOutFlag (a : Byte) : Byte := flagByte (a.getLsbD 0)

/-- ADDIX: 1 if the sum of the index and the byte exceeds 4095 (43_index_memory.md R181). -/
def indexFlag (i : Word) (a : Byte) : Byte := flagByte (decide (4095 < i.toNat + a.toNat))

/-- DRW: 1 if a pixel went from on to off (44_display.md R203, R205). -/
def collisionFlag (c : Bool) : Byte := flagByte c

end Sys2Proof.Machine
end

