-- ==== Sys2Proof/Syntax.lean ====
section
/-! DEFINITION. The instructions: one constructor per row of the opcode table (30_encoding.md R97), their
mnemonics and formats (R91, R103), and the lines of the assembler syntax (R103). -/

namespace Sys2Proof

/-- The 26 instructions of 30_encoding.md R97, in the table's order. `x`, `y` name registers, `nn`, `nnn`,
`n` are the immediates of R93. -/
inductive Instr where
  | cls
  | ret
  | jp (nnn : Addr)
  | call (nnn : Addr)
  | sei (x : Reg) (nn : Byte)
  | snei (x : Reg) (nn : Byte)
  | ldi (x : Reg) (nn : Byte)
  | addi (x : Reg) (nn : Byte)
  | mov (x y : Reg)
  | and (x y : Reg)
  | add (x y : Reg)
  | sub (x y : Reg)
  | shr (x y : Reg)
  | sne (x y : Reg)
  | ldix (nnn : Addr)
  | rnd (x : Reg) (nn : Byte)
  | drw (x y : Reg) (n : Nibble)
  | skp (x : Reg)
  | sknp (x : Reg)
  | gdt (x : Reg)
  | sdt (x : Reg)
  | sst (x : Reg)
  | addix (x : Reg)
  | font (x : Reg)
  | bcd (x : Reg)
  | ldm (x : Reg)
  deriving DecidableEq, Repr

/-- The mnemonics of 30_encoding.md R97, one per row. -/
inductive Mnemonic where
  | CLS | RET | JP | CALL | SEI | SNEI | LDI | ADDI | MOV | AND | ADD | SUB | SHR | SNE | LDIX | RND | DRW
  | SKP | SKNP | GDT | SDT | SST | ADDIX | FONT | BCD | LDM
  deriving DecidableEq, Repr

/-- The six formats of 30_encoding.md R91. -/
inductive Format where
  | FIX | NNN | XNN | XYF | XYN | XFF
  deriving DecidableEq, Repr

/-- The row of the opcode table an instruction belongs to. -/
def Instr.mnemonic : Instr → Mnemonic
  | .cls => .CLS
  | .ret => .RET
  | .jp _ => .JP
  | .call _ => .CALL
  | .sei _ _ => .SEI
  | .snei _ _ => .SNEI
  | .ldi _ _ => .LDI
  | .addi _ _ => .ADDI
  | .mov _ _ => .MOV
  | .and _ _ => .AND
  | .add _ _ => .ADD
  | .sub _ _ => .SUB
  | .shr _ _ => .SHR
  | .sne _ _ => .SNE
  | .ldix _ => .LDIX
  | .rnd _ _ => .RND
  | .drw _ _ _ => .DRW
  | .skp _ => .SKP
  | .sknp _ => .SKNP
  | .gdt _ => .GDT
  | .sdt _ => .SDT
  | .sst _ => .SST
  | .addix _ => .ADDIX
  | .font _ => .FONT
  | .bcd _ => .BCD
  | .ldm _ => .LDM

/-- An operand as the assembler syntax writes it (R103): a register name `V<n>` or a number. -/
inductive Operand where
  | reg (n : Nat)
  | num (n : Nat)
  deriving DecidableEq, Repr

/-- A line of the assembler syntax (R103): the mnemonic, then the operands, destination first. A line
may be ill-formed; `AsmLine.wellFormed` says when it is not. -/
structure AsmLine where
  mnemonic : Mnemonic
  operands : List Operand
  deriving DecidableEq, Repr

/-- The line that spells an instruction: the column "syntax" of 30_encoding.md R103. `SHR` names both
registers although it reads one (R96). -/
def Instr.spell : Instr → AsmLine
  | .cls => ⟨.CLS, []⟩
  | .ret => ⟨.RET, []⟩
  | .jp nnn => ⟨.JP, [.num nnn.toNat]⟩
  | .call nnn => ⟨.CALL, [.num nnn.toNat]⟩
  | .sei x nn => ⟨.SEI, [.reg x, .num nn.toNat]⟩
  | .snei x nn => ⟨.SNEI, [.reg x, .num nn.toNat]⟩
  | .ldi x nn => ⟨.LDI, [.reg x, .num nn.toNat]⟩
  | .addi x nn => ⟨.ADDI, [.reg x, .num nn.toNat]⟩
  | .mov x y => ⟨.MOV, [.reg x, .reg y]⟩
  | .and x y => ⟨.AND, [.reg x, .reg y]⟩
  | .add x y => ⟨.ADD, [.reg x, .reg y]⟩
  | .sub x y => ⟨.SUB, [.reg x, .reg y]⟩
  | .shr x y => ⟨.SHR, [.reg x, .reg y]⟩
  | .sne x y => ⟨.SNE, [.reg x, .reg y]⟩
  | .ldix nnn => ⟨.LDIX, [.num nnn.toNat]⟩
  | .rnd x nn => ⟨.RND, [.reg x, .num nn.toNat]⟩
  | .drw x y n => ⟨.DRW, [.reg x, .reg y, .num n.toNat]⟩
  | .skp x => ⟨.SKP, [.reg x]⟩
  | .sknp x => ⟨.SKNP, [.reg x]⟩
  | .gdt x => ⟨.GDT, [.reg x]⟩
  | .sdt x => ⟨.SDT, [.reg x]⟩
  | .sst x => ⟨.SST, [.reg x]⟩
  | .addix x => ⟨.ADDIX, [.reg x]⟩
  | .font x => ⟨.FONT, [.reg x]⟩
  | .bcd x => ⟨.BCD, [.reg x]⟩
  | .ldm x => ⟨.LDM, [.reg x]⟩

end Sys2Proof
end

