-- ==== Sys2Proof/WellFormed.lean ====
section
/-! DEFINITION. Which terms are well-formed. The fields of `Instr` have the widths of their encodings and
every value of every field is legal (30_encoding.md R92, R93, R96), so the checks that can fail stand on
the lines of the assembler syntax (R103): the operands' number and kinds, and each operand's range. An
instruction is well-formed when the line that spells it is. -/

namespace Sys2Proof

/-- The format of each row (30_encoding.md R91, R97). -/
def Mnemonic.format : Mnemonic → Format
  | .CLS | .RET => .FIX
  | .JP | .CALL | .LDIX => .NNN
  | .SEI | .SNEI | .LDI | .ADDI | .RND => .XNN
  | .MOV | .AND | .ADD | .SUB | .SHR | .SNE => .XYF
  | .DRW => .XYN
  | .SKP | .SKNP | .GDT | .SDT | .SST | .ADDIX | .FONT | .BCD | .LDM => .XFF

/-- The operands a format takes, each in its range: registers 0 to 15, `nn` 8 bits, `nnn` 12 bits, `n`
4 bits (R92, R93). -/
def operandsOk : Format → List Operand → Bool
  | .FIX, [] => true
  | .NNN, [.num a] => decide (a < 4096)
  | .XNN, [.reg x, .num a] => decide (x < 16 ∧ a < 256)
  | .XYF, [.reg x, .reg y] => decide (x < 16 ∧ y < 16)
  | .XYN, [.reg x, .reg y, .num a] => decide (x < 16 ∧ y < 16 ∧ a < 16)
  | .XFF, [.reg x] => decide (x < 16)
  | _, _ => false

/-- A line of the assembler syntax that spells an instruction (R103). -/
def AsmLine.wellFormed (l : AsmLine) : Bool := operandsOk l.mnemonic.format l.operands

/-- An instruction is well-formed when its line is. -/
def Instr.wellFormed (i : Instr) : Bool := i.spell.wellFormed

end Sys2Proof
end

