-- ==== Sys2Proof/Decode.lean ====
section
/-! DEFINITION. Decoding (30_encoding.md R90 to R101), total on any bytes and rejecting by name; after it
the encoder, the opcode table's rows (R97) and the assembler (R103). -/

namespace Sys2Proof

/-- Why bytes are no instruction. -/
inductive DecodeError where
  /-- Fewer than the two bytes of an instruction word (R90). The machine never meets it: its fetch
  always has two bytes. Safe. -/
  | truncated
  /-- The word is `Illegal` (R99, R100). Raised by the decoder, and the step then takes the fatal error
  UnrecognizedOpcode. Safe: the spec names it. -/
  | illegal (word : Word)
  deriving DecidableEq, Repr

/-! ## Fields (R92) -/

/-- `family = w[15:12]`. -/
def fieldFamily (w : Word) : Nibble := w.extractLsb' 12 4

/-- `x = w[11:8]`. -/
def fieldX (w : Word) : Reg := (w.extractLsb' 8 4).toFin

/-- `y = w[7:4]`. -/
def fieldY (w : Word) : Reg := (w.extractLsb' 4 4).toFin

/-- `n = w[3:0]`. -/
def fieldN (w : Word) : Nibble := w.extractLsb' 0 4

/-- `nn = w[7:0]`. -/
def fieldNN (w : Word) : Byte := w.extractLsb' 0 8

/-- `nnn = w[11:0]`. -/
def fieldNNN (w : Word) : Addr := w.extractLsb' 0 12

/-! ## The dispatch of R94, family by family; every fixed digit is checked (R95, decision D18) -/

/-- Family 0: all sixteen bits are fixed. -/
def decodeFamily0 (w : Word) : Except DecodeError Instr :=
  if w = 0x00E0#16 then .ok .cls
  else if w = 0x00EE#16 then .ok .ret
  else .error (.illegal w)

/-- Family 8: the low nibble selects the function. -/
def decodeFamily8 (w : Word) : Except DecodeError Instr :=
  if fieldN w = 0x0#4 then .ok (.mov (fieldX w) (fieldY w))
  else if fieldN w = 0x2#4 then .ok (.and (fieldX w) (fieldY w))
  else if fieldN w = 0x4#4 then .ok (.add (fieldX w) (fieldY w))
  else if fieldN w = 0x5#4 then .ok (.sub (fieldX w) (fieldY w))
  else if fieldN w = 0x6#4 then .ok (.shr (fieldX w) (fieldY w))
  else .error (.illegal w)

/-- Family 9: the low nibble must be 0. -/
def decodeFamily9 (w : Word) : Except DecodeError Instr :=
  if fieldN w = 0x0#4 then .ok (.sne (fieldX w) (fieldY w))
  else .error (.illegal w)

/-- Family E: the low byte selects the function. -/
def decodeFamilyE (w : Word) : Except DecodeError Instr :=
  if fieldNN w = 0x9E#8 then .ok (.skp (fieldX w))
  else if fieldNN w = 0xA1#8 then .ok (.sknp (fieldX w))
  else .error (.illegal w)

/-- Family F: the low byte selects the function. -/
def decodeFamilyF (w : Word) : Except DecodeError Instr :=
  if fieldNN w = 0x07#8 then .ok (.gdt (fieldX w))
  else if fieldNN w = 0x15#8 then .ok (.sdt (fieldX w))
  else if fieldNN w = 0x18#8 then .ok (.sst (fieldX w))
  else if fieldNN w = 0x1E#8 then .ok (.addix (fieldX w))
  else if fieldNN w = 0x29#8 then .ok (.font (fieldX w))
  else if fieldNN w = 0x33#8 then .ok (.bcd (fieldX w))
  else if fieldNN w = 0x65#8 then .ok (.ldm (fieldX w))
  else .error (.illegal w)

/-- `decode(w)` of R94: one of the 26 instructions with its field values, or `Illegal`. -/
def decodeWord (w : Word) : Except DecodeError Instr :=
  match (fieldFamily w).toNat with
  | 0x0 => decodeFamily0 w
  | 0x1 => .ok (.jp (fieldNNN w))
  | 0x2 => .ok (.call (fieldNNN w))
  | 0x3 => .ok (.sei (fieldX w) (fieldNN w))
  | 0x4 => .ok (.snei (fieldX w) (fieldNN w))
  | 0x5 => .error (.illegal w)
  | 0x6 => .ok (.ldi (fieldX w) (fieldNN w))
  | 0x7 => .ok (.addi (fieldX w) (fieldNN w))
  | 0x8 => decodeFamily8 w
  | 0x9 => decodeFamily9 w
  | 0xA => .ok (.ldix (fieldNNN w))
  | 0xB => .error (.illegal w)
  | 0xC => .ok (.rnd (fieldX w) (fieldNN w))
  | 0xD => .ok (.drw (fieldX w) (fieldY w) (fieldN w))
  | 0xE => decodeFamilyE w
  | _ => decodeFamilyF w

/-- The two bytes of a word as memory holds them: the high byte at the lower address (R65, R90). -/
def wordBytes (w : Word) : List Byte := [w.extractLsb' 8 8, w.extractLsb' 0 8]

/-- The word that two bytes in memory form (R65, R90). -/
def wordOfBytes (hi lo : Byte) : Word := hi ++ lo

/-- The instruction at the front of a list of bytes, and the bytes after it. -/
def decodeBytes : List Byte → Except DecodeError (Instr × List Byte)
  | hi :: lo :: rest =>
    match decodeWord (wordOfBytes hi lo) with
    | .ok i => .ok (i, rest)
    | .error e => .error e
  | _ => .error .truncated

/-- The instruction the decoder reads from a row's bits, numbered as spec/opcode_table.json numbers them:
one 16-bit word, bit 0 its least significant; bits above `nbits` are 0. -/
def decodeTableWord (nbits w : Nat) : Option Instr :=
  match decodeBytes (wordBytes (BitVec.ofNat 16 (w % 2 ^ nbits))) with
  | .ok (i, _) => some i
  | .error _ => none

/-! ## The encoder: the words of R97, field by field from bit 15 down (R91) -/

/-- The four bits of a register index. -/
def regBits (x : Reg) : Nibble := BitVec.ofFin x

/-- The word of format NNN. -/
def encNNN (family : Nibble) (nnn : Addr) : Word := family ++ nnn

/-- The word of format XNN. -/
def encXNN (family : Nibble) (x : Reg) (nn : Byte) : Word := family ++ regBits x ++ nn

/-- The word of the formats XYF and XYN: the low nibble is the function or the row count. -/
def encXYN (family : Nibble) (x y : Reg) (n : Nibble) : Word :=
  family ++ regBits x ++ regBits y ++ n

/-- The instruction word of an instruction. -/
def encode : Instr → Word
  | .cls => 0x00E0#16
  | .ret => 0x00EE#16
  | .jp nnn => encNNN 0x1#4 nnn
  | .call nnn => encNNN 0x2#4 nnn
  | .sei x nn => encXNN 0x3#4 x nn
  | .snei x nn => encXNN 0x4#4 x nn
  | .ldi x nn => encXNN 0x6#4 x nn
  | .addi x nn => encXNN 0x7#4 x nn
  | .mov x y => encXYN 0x8#4 x y 0x0#4
  | .and x y => encXYN 0x8#4 x y 0x2#4
  | .add x y => encXYN 0x8#4 x y 0x4#4
  | .sub x y => encXYN 0x8#4 x y 0x5#4
  | .shr x y => encXYN 0x8#4 x y 0x6#4
  | .sne x y => encXYN 0x9#4 x y 0x0#4
  | .ldix nnn => encNNN 0xA#4 nnn
  | .rnd x nn => encXNN 0xC#4 x nn
  | .drw x y n => encXYN 0xD#4 x y n
  | .skp x => encXNN 0xE#4 x 0x9E#8
  | .sknp x => encXNN 0xE#4 x 0xA1#8
  | .gdt x => encXNN 0xF#4 x 0x07#8
  | .sdt x => encXNN 0xF#4 x 0x15#8
  | .sst x => encXNN 0xF#4 x 0x18#8
  | .addix x => encXNN 0xF#4 x 0x1E#8
  | .font x => encXNN 0xF#4 x 0x29#8
  | .bcd x => encXNN 0xF#4 x 0x33#8
  | .ldm x => encXNN 0xF#4 x 0x65#8

/-- The bytes of an instruction as memory holds them. -/
def encodeBytes (i : Instr) : List Byte := wordBytes (encode i)

/-! ## The opcode table (R97) -/

/-- One row of R97: the mask and the match value. -/
structure OpRow where
  mnemonic : Mnemonic
  mask : Word
  value : Word
  deriving DecidableEq, Repr

/-- The rows of R97 in the table's order. -/
def opTable : List OpRow :=
  [⟨.CLS, 0xFFFF#16, 0x00E0#16⟩, ⟨.RET, 0xFFFF#16, 0x00EE#16⟩, ⟨.JP, 0xF000#16, 0x1000#16⟩, ⟨.CALL, 0xF000#16, 0x2000#16⟩,
   ⟨.SEI, 0xF000#16, 0x3000#16⟩, ⟨.SNEI, 0xF000#16, 0x4000#16⟩, ⟨.LDI, 0xF000#16, 0x6000#16⟩, ⟨.ADDI, 0xF000#16, 0x7000#16⟩,
   ⟨.MOV, 0xF00F#16, 0x8000#16⟩, ⟨.AND, 0xF00F#16, 0x8002#16⟩, ⟨.ADD, 0xF00F#16, 0x8004#16⟩, ⟨.SUB, 0xF00F#16, 0x8005#16⟩,
   ⟨.SHR, 0xF00F#16, 0x8006#16⟩] ++
  [⟨.SNE, 0xF00F#16, 0x9000#16⟩, ⟨.LDIX, 0xF000#16, 0xA000#16⟩, ⟨.RND, 0xF000#16, 0xC000#16⟩, ⟨.DRW, 0xF000#16, 0xD000#16⟩,
   ⟨.SKP, 0xF0FF#16, 0xE09E#16⟩, ⟨.SKNP, 0xF0FF#16, 0xE0A1#16⟩, ⟨.GDT, 0xF0FF#16, 0xF007#16⟩, ⟨.SDT, 0xF0FF#16, 0xF015#16⟩,
   ⟨.SST, 0xF0FF#16, 0xF018#16⟩, ⟨.ADDIX, 0xF0FF#16, 0xF01E#16⟩, ⟨.FONT, 0xF0FF#16, 0xF029#16⟩, ⟨.BCD, 0xF0FF#16, 0xF033#16⟩,
   ⟨.LDM, 0xF0FF#16, 0xF065#16⟩]

/-- A row selects a word when the masked word is the row's match value (R94). -/
def OpRow.selects (r : OpRow) (w : Word) : Bool := decide (w &&& r.mask = r.value)

/-! ## The assembler (R103) -/

/-- The operand at a place of a line as a register (a line that is well-formed has one there). -/
def regAt (l : AsmLine) (k : Nat) : Reg :=
  match l.operands[k]? with
  | some (.reg n) => Fin.ofNat 16 n
  | _ => 0

/-- The operand at a place of a line as a number. -/
def numAt (l : AsmLine) (k : Nat) : Nat :=
  match l.operands[k]? with
  | some (.num n) => n
  | _ => 0

/-- The instruction a well-formed line spells. -/
def instrOfLine (l : AsmLine) : Instr :=
  match l.mnemonic with
  | .CLS => .cls
  | .RET => .ret
  | .JP => .jp (BitVec.ofNat 12 (numAt l 0))
  | .CALL => .call (BitVec.ofNat 12 (numAt l 0))
  | .SEI => .sei (regAt l 0) (BitVec.ofNat 8 (numAt l 1))
  | .SNEI => .snei (regAt l 0) (BitVec.ofNat 8 (numAt l 1))
  | .LDI => .ldi (regAt l 0) (BitVec.ofNat 8 (numAt l 1))
  | .ADDI => .addi (regAt l 0) (BitVec.ofNat 8 (numAt l 1))
  | .MOV => .mov (regAt l 0) (regAt l 1)
  | .AND => .and (regAt l 0) (regAt l 1)
  | .ADD => .add (regAt l 0) (regAt l 1)
  | .SUB => .sub (regAt l 0) (regAt l 1)
  | .SHR => .shr (regAt l 0) (regAt l 1)
  | .SNE => .sne (regAt l 0) (regAt l 1)
  | .LDIX => .ldix (BitVec.ofNat 12 (numAt l 0))
  | .RND => .rnd (regAt l 0) (BitVec.ofNat 8 (numAt l 1))
  | .DRW => .drw (regAt l 0) (regAt l 1) (BitVec.ofNat 4 (numAt l 2))
  | .SKP => .skp (regAt l 0)
  | .SKNP => .sknp (regAt l 0)
  | .GDT => .gdt (regAt l 0)
  | .SDT => .sdt (regAt l 0)
  | .SST => .sst (regAt l 0)
  | .ADDIX => .addix (regAt l 0)
  | .FONT => .font (regAt l 0)
  | .BCD => .bcd (regAt l 0)
  | .LDM => .ldm (regAt l 0)

/-- The assembler: a line that is not well-formed is no instruction. -/
def assemble (l : AsmLine) : Option Instr := if l.wellFormed then some (instrOfLine l) else none

end Sys2Proof
end

