-- ==== Sys2Proof/Config.lean ====
section
/-! DEFINITION. What the spec fixes for this hardware as a size or a parameter (00_scope.md R6, R7),
and the free values that stand for the inputs of a step which the host has not supplied. -/

namespace Sys2Proof.Config

/-- Memory is 4096 bytes, byte addressed (R6). -/
def memSize : Nat := 4096

/-- The font table starts at 0x050 (R6, 10_state.md R32). -/
def fontStart : Nat := 0x050

/-- A glyph has five bytes (10_state.md R32). -/
def glyphSize : Nat := 5

/-- The program image is loaded at 0x200, which is also the reset value of the program counter (R6). -/
def programStart : Nat := 0x200

/-- The largest program image: 4096 - 0x200 bytes (R6). -/
def maxProgram : Nat := 3584

/-- The value of STACK_DEPTH for this hardware (R7): 16, the spec's own decision D5 (log 2). -/
def stackDepth : Option Nat := some 16

/-- The default of FONT (R7): the glyph of each digit 0 to F, top row first. PRESUMED: the table of 10_state.md
R33, which the spec itself marks as general knowledge, not in its source (log 3). -/
def font : List Byte :=
  [0xF0, 0x90, 0x90, 0x90, 0xF0] ++ [0x20, 0x60, 0x20, 0x20, 0x70] ++
  [0xF0, 0x10, 0xF0, 0x80, 0xF0] ++ [0xF0, 0x10, 0xF0, 0x10, 0xF0] ++
  [0x90, 0x90, 0xF0, 0x10, 0x10] ++ [0xF0, 0x80, 0xF0, 0x10, 0xF0] ++
  [0xF0, 0x80, 0xF0, 0x90, 0xF0] ++ [0xF0, 0x10, 0x20, 0x40, 0x40] ++
  [0xF0, 0x90, 0xF0, 0x90, 0xF0] ++ [0xF0, 0x90, 0xF0, 0x10, 0xF0] ++
  [0xF0, 0x90, 0xF0, 0x90, 0x90] ++ [0xE0, 0x90, 0xE0, 0x90, 0xE0] ++
  [0xF0, 0x80, 0x80, 0x80, 0xF0] ++ [0xE0, 0x90, 0x90, 0x90, 0xE0] ++
  [0xF0, 0x80, 0xF0, 0x80, 0xF0] ++ [0xF0, 0x80, 0xF0, 0x80, 0x80]

/-- The two parameters that the model takes as arguments (R7, 10_state.md R21). `stackDepth` is STACK_DEPTH:
`some d` is a stack of at most `d` return addresses, `none` is `unbounded`. `font` is FONT, 80 bytes. -/
structure Params where
  stackDepth : Option Nat
  font : Vector Byte 80
  deriving DecidableEq, Repr

/-- STACK_DEPTH is a positive number or `unbounded` (R7). -/
def Params.wf (p : Params) : Bool := decide (p.stackDepth ≠ some 0)

/-- The parameters of this hardware: depth 16 and the default font (log 2, log 3). -/
def params : Params := ⟨stackDepth, ⟨font.toArray, rfl⟩⟩

/-- Free value: the time in milliseconds of the step with this index, when the host has not supplied
one (46_host_operations.md R246: any natural number). It has no body, so no proof can know it (log 5). -/
opaque freeNowMs : Nat → Nat

/-- Free value: the random byte of the step with this index, when the host has not supplied one
(46_host_operations.md R247: any byte, under no law). It has no body, so no proof can know it (log 5). -/
opaque freeRnd : Nat → Byte

end Sys2Proof.Config
end

