-- ==== Sys2Proof/Machine/State.lean ====
section
/-! DEFINITION. The state of the machine (10_state.md R20), the reasons a step could stop, and the state
after reset (R44). -/

namespace Sys2Proof.Machine

/-- Memory: (address, byte) pairs in one canonical form (`Memory.wf`): addresses strictly rising, each below
4096, and no entry equal to what an unlisted address reads as (`Memory.blank`). -/
abbrev Memory := List Host.Cell

/-- The framebuffer FB, 64 columns of 32 pixels: `FB[px][py]`, true = on (R36, 44_display.md R200). -/
abbrev Framebuffer := Vector (Vector Bool 32) 64

/-- A triple of the delta queue: one flipped pixel and its new state (R37). -/
structure Delta where
  px : Fin 64
  py : Fin 32
  on : Bool
  deriving DecidableEq, Repr

/-- The kinds of fatal error (60_exceptions.md R261). -/
inductive FatalKind where
  | unrecognizedOpcode
  | stackUnderflow
  | stackOverflow
  deriving DecidableEq, Repr

/-- The record in the fault latch: the kind, the instruction word and the address it was fetched from (R42). -/
structure Fatal where
  kind : FatalKind
  word : Word
  pc : Word
  deriving DecidableEq, Repr

/-- The two inputs the host supplies to one step (46_host_operations.md R246, R247). -/
structure StepInput where
  nowMs : Nat
  rnd : Byte
  deriving DecidableEq, Repr

/-- The complete state of the machine (10_state.md R20); the last three fields are the model's own and hold the
parameter STACK_DEPTH (R21, log 2) and the inputs of the coming steps (R21, log 5). -/
structure State where
  /-- The general registers V0 to VF (R22). -/
  V : Vector Byte 16
  /-- The index register (R27). -/
  I : Word
  /-- The program counter (R25). -/
  pc : Word
  /-- STACK, oldest entry first; SP is its length (R29). -/
  stack : List Word
  /-- MEM (R31). -/
  mem : Memory
  /-- FB (R36). -/
  fb : Framebuffer
  /-- DELTA, oldest triple first (R37). -/
  delta : List Delta
  /-- FULL_REDRAW (R38). -/
  fullRedraw : Bool
  /-- DT_START (R39). -/
  dtStart : Byte
  /-- DT_T0, in milliseconds (R39). -/
  dtT0 : Nat
  /-- ST (R40). -/
  st : Byte
  /-- KEY, true = Down (R41). -/
  key : Vector Bool 16
  /-- FAULT (R42). -/
  fault : Option Fatal
  /-- The model's own: the parameter STACK_DEPTH (00_scope.md R7), `none` for `unbounded`; fixed at reset. -/
  stackDepth : Option Nat
  /-- The model's own: the inputs the host has supplied for the coming steps, the next step's first. -/
  inputs : List StepInput
  /-- The model's own: how many steps were taken, the argument of the free values. -/
  inputIndex : Nat
  deriving DecidableEq, Repr

/-- The reasons for which `step` could stop without a next state: NONE. Nobody raises one. The fatal errors of
this machine leave a state, with FAULT latched, and are next states (60_exceptions.md R262, R263; log 1); no
memory access, index or value faults (R269). An empty type is safe: it makes no claim true. -/
inductive Fault where
  deriving DecidableEq, Repr

/-- The reasons for which `exec` refuses. -/
inductive Refusal where
  /-- Raised by an arm of `exec` whose instruction has no meaning yet: no arm of this model raises it. Safe. -/
  | notModelled (mnemonic : String)
  deriving DecidableEq, Repr

/-- The machine right after `reset` of the empty program (10_state.md R44). V, I, ST and FULL_REDRAW are the
spec's own choice of zero (D4, log 4); memory lists nothing, so it reads as the font table and zeros;
STACK_DEPTH has its value for this hardware (log 2), and the inputs hold nothing (log 5). Other parameters and a
program are given by `resetWith` (Machine/HostOps.lean). -/
def State.reset : State where
  V := Vector.replicate 16 0
  I := 0
  pc := 0x0200
  stack := []
  mem := []
  fb := Vector.replicate 64 (Vector.replicate 32 false)
  delta := []
  fullRedraw := false
  dtStart := 0
  dtT0 := 0
  st := 0
  key := Vector.replicate 16 false
  fault := none
  stackDepth := Config.stackDepth
  inputs := []
  inputIndex := 0

end Sys2Proof.Machine
end

