-- ==== Sys2Proof/Machine/Memory.lean ====
section
/-! DEFINITION. The operations over MEM (20_memory.md R60 to R68). Every address is reduced modulo 4096, so every
access hits one of the 4096 bytes and none can fault (R62, the spec's own decision D1). -/

namespace Sys2Proof.Machine

/-- What an address that the list does not name reads as: its byte after `reset` of the empty program, the font
table at 0x050 to 0x09F and zero elsewhere (10_state.md R31, R44). This fixes only how memories are written down,
not what they hold: a memory with another font lists the bytes that differ (log 8). -/
def Memory.blank (a : Nat) : Byte :=
  if Config.fontStart ≤ a then Config.font.getD (a - Config.fontStart) 0 else 0

/-- The byte that the list gives an address below 4096. -/
def Memory.lookup : Memory → Nat → Byte
  | [], a => Memory.blank a
  | (b, v) :: rest, a => if b = a then v else Memory.lookup rest a

/-- An entry put in front of a list of entries at higher addresses; no entry where the byte is the blank one. -/
def Memory.entry (a : Nat) (v : Byte) (rest : Memory) : Memory :=
  if v = Memory.blank a then rest else (a, v) :: rest

/-- The list with the byte of one address below 4096 changed, in canonical form. -/
def Memory.insert : Memory → Nat → Byte → Memory
  | [], a, v => Memory.entry a v []
  | (b, u) :: rest, a, v =>
    if a < b then Memory.entry a v ((b, u) :: rest)
    else if a = b then Memory.entry a v rest
    else (b, u) :: Memory.insert rest a v

/-- The index into MEM of any address presented to memory (R62). -/
def memIndex (a : Nat) : Nat := a % Config.memSize

/-- `MEM[a mod 4096]`, that is `MemRead(a, 1)` (R63). -/
def Memory.read (m : Memory) (a : Nat) : Byte := m.lookup (memIndex a)

/-- `MEM[a mod 4096] <- v`, that is `MemWrite(a, 1, v)` (R64). -/
def Memory.write (m : Memory) (a : Nat) (v : Byte) : Memory := m.insert (memIndex a) v

/-- `MemRead(addr, n)`: the `n` bytes from `addr` on, the first most significant (R63). -/
def Memory.readN (m : Memory) (addr : Nat) : Nat → Nat
  | 0 => 0
  | n + 1 => (m.read addr).toNat * 256 ^ n + Memory.readN m (addr + 1) n

/-- `MemWrite(addr, n, v)`: the `n`-byte value `v`, most significant byte first (R64). -/
def Memory.writeN (m : Memory) (addr : Nat) : Nat → Nat → Memory
  | 0, _ => m
  | n + 1, v => Memory.writeN (m.write addr (BitVec.ofNat 8 (v / 256 ^ n))) (addr + 1) n v

/-- The bytes of a list stored at consecutive addresses, the first at `addr` (70_reset_and_hazards.md R290). -/
def Memory.load (m : Memory) (addr : Nat) : List Byte → Memory
  | [] => m
  | b :: bs => Memory.load (m.write addr b) (addr + 1) bs

/-- The entries of a list are in canonical form and all at `low` or above. -/
def Memory.wfFrom (low : Nat) : Memory → Bool
  | [] => true
  | (a, v) :: rest =>
    decide (low ≤ a ∧ a < Config.memSize ∧ v ≠ Memory.blank a) && Memory.wfFrom (a + 1) rest

/-- The canonical form: addresses strictly rising and below 4096, no entry equal to the blank byte. -/
def Memory.wf (m : Memory) : Bool := Memory.wfFrom 0 m

end Sys2Proof.Machine
end

