-- ==== Sys2Proof/Machine/Ops.lean ====
section
/-! DEFINITION. The named operations over the state: registers, program counter, stack, the inputs of a step,
the fetch, and taking a fatal error. There is no return from a fatal error (60_exceptions.md R263, R271). -/

namespace Sys2Proof.Machine

/-! ## Registers -/

/-- `V[r]` (10_state.md R22). -/
def State.getV (s : State) (r : Reg) : Byte := s.V[r]

/-- `V[r] <- v`. No register is hard-wired (R22). -/
def State.setV (s : State) (r : Reg) (v : Byte) : State := { s with V := s.V.set r v }

/-- All general registers at once, for the block load. -/
def State.setRegs (s : State) (regs : Vector Byte 16) : State := { s with V := regs }

/-- `I <- v` (R27). -/
def State.setI (s : State) (v : Word) : State := { s with I := v }

/-- `MEM <- m`. -/
def State.setMem (s : State) (m : Memory) : State := { s with mem := m }

/-- `MEM[a mod 4096]` (20_memory.md R63). -/
def State.readByte (s : State) (a : Nat) : Byte := s.mem.read a

/-! ## The program counter (10_state.md R25, R26) -/

/-- `pc <- target`. -/
def State.setPc (s : State) (target : Word) : State := { s with pc := target }

/-- `pc <- (pc + k) mod 65536`; the wrap is the spec's own decision D2. -/
def State.advance (s : State) (k : Nat) : State := s.setPc (s.pc + BitVec.ofNat 16 k)

/-- Fall through to the next instruction: `pc <- pc + 2`. -/
def State.fallThrough (s : State) : State := s.advance 2

/-- The end of a skip instruction: `pc + 4` where the condition holds, else `pc + 2` (40_step_cycle.md R124). -/
def State.skipIf (s : State) (c : Bool) : State := if c then s.advance 4 else s.advance 2

/-! ## The call stack (10_state.md R29, R30) -/

/-- The stack holds STACK_DEPTH entries; never so when STACK_DEPTH is `unbounded`. -/
def State.stackFull (s : State) : Bool :=
  match s.stackDepth with
  | some d => decide (d ≤ s.stack.length)
  | none => false

/-- The stack with a value pushed: `STACK[SP] <- v ; SP <- SP + 1`. -/
def pushed (stack : List Word) (v : Word) : List Word := stack ++ [v]

/-- The machine with another STACK_DEPTH (00_scope.md R7): only a reset sets it. -/
def State.setStackDepth (s : State) (depth : Option Nat) : State := { s with stackDepth := depth }

/-- `STACK <- stack`. -/
def State.setStack (s : State) (stack : List Word) : State := { s with stack := stack }

/-! ## Devices -/

/-- `FB`, `DELTA` and the full-redraw flag as a drawing instruction leaves them. -/
def State.setDisplay (s : State) (fb : Framebuffer) (delta : List Delta) (fullRedraw : Bool) : State :=
  { s with fb := fb, delta := delta, fullRedraw := fullRedraw }

/-- `DT_START <- v ; DT_T0 <- t` (10_state.md R39). -/
def State.setTimer (s : State) (v : Byte) (t : Nat) : State := { s with dtStart := v, dtT0 := t }

/-- `ST <- v` (R40). -/
def State.setSt (s : State) (v : Byte) : State := { s with st := v }

/-- `KEY[k]` (R41). -/
def State.getKey (s : State) (k : Fin 16) : Bool := s.key[k]

/-- `KEY[k] <- down` (R41). -/
def State.setKey (s : State) (k : Fin 16) (down : Bool) : State := { s with key := s.key.set k down }

/-! ## The inputs of a step (46_host_operations.md R246, R247; log 5) -/

/-- `now_ms`: what the host supplied for this step, else a free value. -/
def State.nowMs (s : State) : Nat :=
  match s.inputs with
  | i :: _ => i.nowMs
  | [] => Config.freeNowMs s.inputIndex

/-- `rnd`: what the host supplied for this step, else a free value. -/
def State.rnd (s : State) : Byte :=
  match s.inputs with
  | i :: _ => i.rnd
  | [] => Config.freeRnd s.inputIndex

/-- The host supplies `now_ms` and `rnd` to the next step. -/
def State.supply (s : State) (nowMs : Nat) (rnd : Byte) : State :=
  { s with inputs := ⟨nowMs, rnd⟩ :: s.inputs }

/-- The inputs with those of the step just taken used up; only the model's own fields change. -/
def State.nextInput (s : State) : State :=
  { s with inputs := s.inputs.tail, inputIndex := s.inputIndex + 1 }

/-! ## Fetch and decode (40_step_cycle.md R122, R123) -/

/-- `word = MemRead(pc, 2)`. -/
def State.fetchWord (s : State) : Word := BitVec.ofNat 16 (s.mem.readN s.pc.toNat 2)

/-- The instruction at the program counter, or why there is none. -/
def State.fetch (s : State) : Except DecodeError Instr := decodeWord s.fetchWord

/-- The state in which a word stands where the next step fetches, and the machine is not latched. -/
def State.storeFetchWord (s : State) (w : Nat) : State :=
  { s.setMem (s.mem.writeN s.pc.toNat 2 w) with fault := none }

/-! ## Taking a fatal error (60_exceptions.md R261, R262) -/

/-- `raise kind(word, pc)`: FAULT takes the record, nothing else changes, `pc` still holds the address of the
instruction. The latch is the spec's own rendering (D6). -/
def takeFatal (kind : FatalKind) (word : Word) (s : State) : State :=
  { s with fault := some ⟨kind, word, s.pc⟩ }

/-- The numeric code of a kind (R261; the spec's own, D6). -/
def FatalKind.code : FatalKind → Nat
  | .unrecognizedOpcode => 1
  | .stackUnderflow => 2
  | .stackOverflow => 3

/-- The step on an `Illegal` word (R123, R264). -/
def illegalStep (s : State) : State := takeFatal .unrecognizedOpcode s.fetchWord s

/-- The step on a latched machine: no state changes (40_step_cycle.md R121). -/
def latchedStep (s : State) : State := s

/-- The outcome of the step that ended in a state: `Ok`, or `Fatal` with its record (R120, R125). The state
carries it: a step that ends `Ok` leaves FAULT `none`, and one that ends `Fatal` leaves its record there. -/
inductive StepOutcome where
  | ok
  | fatal (r : Fatal)
  deriving DecidableEq, Repr

/-- The outcome read from the state after the step (log 1). -/
def State.outcome (s : State) : StepOutcome :=
  match s.fault with
  | none => .ok
  | some r => .fatal r

end Sys2Proof.Machine
end

