-- ==== Sys2Proof/Machine/Operands.lean ====
section
/-! DEFINITION. Every operand form of the machine, beside the plain register V[x] (`State.getV`): immediates
(30_encoding.md R93), the low nibble of a register, and the byte in memory at an offset from I
(43_index_memory.md R185). -/

namespace Sys2Proof.Machine

/-- `zext_16(nnn)`: a 12-bit address as a 16-bit value (R93). -/
def zextAddr (nnn : Addr) : Word := nnn.zeroExtend 16

/-- The low nibble of a register's value: the glyph digit of FONT (R182, the spec's own decision D7) and the key
index of SKP and SKNP (45_timers_keypad.md R227, decision D8). -/
def lowNibble (v : Byte) : Fin 16 := (v.extractLsb' 0 4).toFin

/-- The effective address of a data access: `I + k`, reduced modulo 4096 by the access (R185). -/
def State.dataAddr (s : State) (k : Nat) : Nat := s.I.toNat + k

/-- The byte at an offset from I (R185). -/
def State.dataByte (s : State) (k : Nat) : Byte := s.readByte (s.dataAddr k)

/-- The address of the glyph of a digit: `0x050 + 5 × d` (R182, 10_state.md R32). -/
def glyphAddr (d : Fin 16) : Word := BitVec.ofNat 16 (Config.fontStart + Config.glyphSize * d.val)

end Sys2Proof.Machine
end

