-- ==== Sys2Proof/Machine/Alu.lean ====
section
/-! DEFINITION. LDI, ADDI, MOV, AND, ADD, SUB, SHR, RND (42_alu.md). Operands are read first and VF is written
last (00_scope.md R10). -/

namespace Sys2Proof.Machine

/-- `(a + b) mod 256` (R160). -/
def addByte (a b : Byte) : Byte := BitVec.ofNat 8 ((a.toNat + b.toNat) % 256)

/-- `(a - b) mod 256` (R160, R166). -/
def subByte (a b : Byte) : Byte := BitVec.ofInt 8 (((a.toNat : Int) - (b.toNat : Int)) % 256)

/-- `V[x] <- v`, then `pc <- pc + 2`. -/
def State.writeReg (s : State) (x : Reg) (v : Byte) : State := (s.setV x v).fallThrough

/-- `V[x] <- v ; V[0xF] <- flag`, in this order, then `pc <- pc + 2` (R10). -/
def State.writeRegFlag (s : State) (x : Reg) (v flag : Byte) : State :=
  ((s.setV x v).setV VF flag).fallThrough

/-- LDI (R161). -/
def execLdi (x : Reg) (nn : Byte) (s : State) : Host.Outcome State Fault Refusal :=
  .next (s.writeReg x nn)

/-- ADDI (R162): VF is not written. -/
def execAddi (x : Reg) (nn : Byte) (s : State) : Host.Outcome State Fault Refusal :=
  .next (s.writeReg x (addByte (s.getV x) nn))

/-- MOV (R163). -/
def execMov (x y : Reg) (s : State) : Host.Outcome State Fault Refusal :=
  .next (s.writeReg x (s.getV y))

/-- AND (R164). -/
def execAnd (x y : Reg) (s : State) : Host.Outcome State Fault Refusal :=
  .next (s.writeReg x (s.getV x &&& s.getV y))

/-- ADD (R165): VF is the carry. -/
def execAdd (x y : Reg) (s : State) : Host.Outcome State Fault Refusal :=
  .next (s.writeRegFlag x (addByte (s.getV x) (s.getV y)) (carryFlag (s.getV x) (s.getV y)))

/-- SUB (R166): VF is the negated borrow. -/
def execSub (x y : Reg) (s : State) : Host.Outcome State Fault Refusal :=
  .next (s.writeRegFlag x (subByte (s.getV x) (s.getV y)) (notBorrowFlag (s.getV x) (s.getV y)))

/-- SHR (R167): V[x] in place, `y` is not read (30_encoding.md R96, decision D16); VF is the bit shifted out,
written last also for x = 0xF (decision D17). -/
def execShr (x _y : Reg) (s : State) : Host.Outcome State Fault Refusal :=
  .next (s.writeRegFlag x (s.getV x >>> 1) (shiftedOutFlag (s.getV x)))

/-- RND (R168): the step's random byte under a mask. -/
def execRnd (x : Reg) (nn : Byte) (s : State) : Host.Outcome State Fault Refusal :=
  .next (s.writeReg x (nn &&& s.rnd))

end Sys2Proof.Machine
end

