-- ==== Sys2Proof/Machine/ControlFlow.lean ====
section
/-! DEFINITION. RET, JP, CALL, SEI, SNEI, SNE (41_control_flow.md). -/

namespace Sys2Proof.Machine

/-- RET (R140): StackUnderflow on an empty stack, else continue at the popped value plus 2. -/
def execRet (s : State) : Host.Outcome State Fault Refusal :=
  match s.stack.getLast? with
  | none => .next (takeFatal .stackUnderflow (encode .ret) s)
  | some r => .next ((s.setStack s.stack.dropLast).setPc (r + 2#16))

/-- JP (R141). -/
def execJp (nnn : Addr) (s : State) : Host.Outcome State Fault Refusal :=
  .next (s.setPc (zextAddr nnn))

/-- CALL (R142): StackOverflow on a full stack, else push the address of this CALL and jump. -/
def execCall (nnn : Addr) (s : State) : Host.Outcome State Fault Refusal :=
  if s.stackFull then .next (takeFatal .stackOverflow (encode (.call nnn)) s)
  else .next ((s.setStack (pushed s.stack s.pc)).setPc (zextAddr nnn))

/-- SEI (R143). -/
def execSei (x : Reg) (nn : Byte) (s : State) : Host.Outcome State Fault Refusal :=
  .next (s.skipIf (s.getV x == nn))

/-- SNEI (R144). -/
def execSnei (x : Reg) (nn : Byte) (s : State) : Host.Outcome State Fault Refusal :=
  .next (s.skipIf (s.getV x != nn))

/-- SNE (R145). -/
def execSne (x y : Reg) (s : State) : Host.Outcome State Fault Refusal :=
  .next (s.skipIf (s.getV x != s.getV y))

end Sys2Proof.Machine
end

