-- ==== Sys2Proof/Machine/Display.lean ====
section
/-! DEFINITION. CLS and DRW, the sprite-drawing engine (44_display.md). -/

namespace Sys2Proof.Machine

/-- `FB[px][py]` (R200). -/
def fbGet (fb : Framebuffer) (px : Fin 64) (py : Fin 32) : Bool := fb[px][py]

/-- `FB[px][py] <- v`. -/
def fbSet (fb : Framebuffer) (px : Fin 64) (py : Fin 32) (v : Bool) : Framebuffer :=
  fb.set px (fb[px].set py v)

/-- The framebuffer with every pixel off. -/
def blankFb : Framebuffer := Vector.replicate 64 (Vector.replicate 32 false)

/-- CLS (R201): every pixel off, pending triples discarded, a full redraw requested; the last two are the spec's
own decision D10. -/
def execCls (s : State) : Host.Outcome State Fault Refusal :=
  .next (s.setDisplay blankFb [] true).fallThrough

/-- What a drawing changes while it runs: the framebuffer, the delta queue, and whether a pixel went off (R203). -/
structure Canvas where
  fb : Framebuffer
  delta : List Delta
  collision : Bool
  deriving DecidableEq, Repr

/-- The pixel at exact integer coordinates flips and is recorded; outside the grid it is dropped (R203, R204,
the spec's own decision D9). -/
def flipPixel (px py : Nat) (c : Canvas) : Canvas :=
  if h : px < 64 ∧ py < 32 then
    let old := fbGet c.fb ⟨px, h.1⟩ ⟨py, h.2⟩
    { fb := fbSet c.fb ⟨px, h.1⟩ ⟨py, h.2⟩ (!old)
      delta := c.delta ++ [⟨⟨px, h.1⟩, ⟨py, h.2⟩, !old⟩]
      collision := c.collision || old }
  else c

/-- One bit column of a sprite row: bit `7 - j` of the byte, at column `x0 + j` (R203). -/
def drawBit (b : Byte) (x0 py : Nat) (c : Canvas) (j : Nat) : Canvas :=
  if b.getLsbD (7 - j) then flipPixel (x0 + j) py c else c

/-- One sprite row: its eight bit columns, most significant first (R203). -/
def drawRow (b : Byte) (x0 py : Nat) (c : Canvas) : Canvas := (List.range 8).foldl (drawBit b x0 py) c

/-- The sprite's rows 0 to `n - 1`; row `i` is the byte at `I + i` (R203). -/
def drawRows (s : State) (x0 y0 n : Nat) (c : Canvas) : Canvas :=
  (List.range n).foldl (fun c i => drawRow (s.dataByte i) x0 (y0 + i) c) c

/-- The canvas after drawing `n` rows at a position given by two register values. -/
def drawSprite (s : State) (x0 y0 : Byte) (n : Nibble) : Canvas :=
  drawRows s x0.toNat y0.toNat n.toNat ⟨s.fb, s.delta, false⟩

/-- The state a drawing leaves: framebuffer and queue, then VF, written last, then `pc` (R203, R205). -/
def State.applyCanvas (s : State) (c : Canvas) : State :=
  ((s.setDisplay c.fb c.delta s.fullRedraw).setV VF (collisionFlag c.collision)).fallThrough

/-- DRW (R202, R203): the position is read before VF is written; FULL_REDRAW is not touched (R206). -/
def execDrw (x y : Reg) (n : Nibble) (s : State) : Host.Outcome State Fault Refusal :=
  .next (s.applyCanvas (drawSprite s (s.getV x) (s.getV y) n))

end Sys2Proof.Machine
end

