-- ==== Sys2Proof/Machine/IndexMemory.lean ====
section
/-! DEFINITION. LDIX, ADDIX, FONT, BCD, LDM (43_index_memory.md). BCD, LDM and DRW leave I unchanged (10_state.md
R28, the spec's own decision D15). -/

namespace Sys2Proof.Machine

/-- LDIX (R180). -/
def execLdix (nnn : Addr) (s : State) : Host.Outcome State Fault Refusal :=
  .next (s.setI (zextAddr nnn)).fallThrough

/-- `(I + a) mod 4096` (R181). -/
def addIndex (i : Word) (a : Byte) : Word := BitVec.ofNat 16 ((i.toNat + a.toNat) % 4096)

/-- ADDIX (R181): VF, written last, says whether the sum exceeded 4095. -/
def execAddix (x : Reg) (s : State) : Host.Outcome State Fault Refusal :=
  .next ((s.setI (addIndex s.I (s.getV x))).setV VF (indexFlag s.I (s.getV x))).fallThrough

/-- FONT (R182): no memory is read. -/
def execFont (x : Reg) (s : State) : Host.Outcome State Fault Refusal :=
  .next (s.setI (glyphAddr (lowNibble (s.getV x)))).fallThrough

/-- The decimal digit that BCD stores at offset `k` from I: hundreds, tens, ones (R183). -/
def bcdDigit (a : Byte) (k : Nat) : Byte :=
  match k with
  | 0 => BitVec.ofNat 8 (a.toNat / 100)
  | 1 => BitVec.ofNat 8 (a.toNat / 10 % 10)
  | _ => BitVec.ofNat 8 (a.toNat % 10)

/-- MEM after the three stores of BCD, in their order (R183). -/
def bcdMem (s : State) (a : Byte) : Memory :=
  ((s.mem.write (s.dataAddr 0) (bcdDigit a 0)).write (s.dataAddr 1) (bcdDigit a 1)).write
    (s.dataAddr 2) (bcdDigit a 2)

/-- BCD (R183): the only instruction that writes memory; nothing protects the font or the program (10_state.md
R34). -/
def execBcd (x : Reg) (s : State) : Host.Outcome State Fault Refusal :=
  .next (s.setMem (bcdMem s (s.getV x))).fallThrough

/-- The registers after `V[k] <- MemRead(base + k, 1)` for the first `n` registers, ascending (R184). -/
def loadRegs (s : State) : Nat → Vector Byte 16
  | 0 => s.V
  | n + 1 => (loadRegs s n).setIfInBounds n (s.dataByte n)

/-- LDM (R184): V[0] to V[x] inclusive. -/
def execLdm (x : Reg) (s : State) : Host.Outcome State Fault Refusal :=
  .next (s.setRegs (loadRegs s (x.val + 1))).fallThrough

end Sys2Proof.Machine
end

