-- ==== Sys2Proof/Machine/TimersKeypad.lean ====
section
/-! DEFINITION. GDT, SDT, SST, SKP, SKNP (45_timers_keypad.md). -/

namespace Sys2Proof.Machine

/-- The count of ticks in a number of milliseconds: `(elapsed_ms × 60) div 1000` (R220). -/
def dtTicks (elapsedMs : Nat) : Nat := elapsedMs * 60 / 1000

/-- `dt_value(now_ms)`: the start value less the ticks since the start, never below 0; an earlier time counts as
no time elapsed (R220, decision D12). -/
def dtValue (start : Byte) (t0 nowMs : Nat) : Nat := start.toNat - dtTicks (nowMs - t0)

/-- GDT (R222). -/
def execGdt (x : Reg) (s : State) : Host.Outcome State Fault Refusal :=
  .next (s.setV x (BitVec.ofNat 8 (dtValue s.dtStart s.dtT0 s.nowMs))).fallThrough

/-- SDT (R223). -/
def execSdt (x : Reg) (s : State) : Host.Outcome State Fault Refusal :=
  .next (s.setTimer (s.getV x) s.nowMs).fallThrough

/-- SST (R224). -/
def execSst (x : Reg) (s : State) : Host.Outcome State Fault Refusal :=
  .next (s.setSt (s.getV x)).fallThrough

/-- The key that a register's value names: its low nibble (R227, the spec's own decision D8). -/
def State.keyIndex (s : State) (x : Reg) : Fin 16 := lowNibble (s.getV x)

/-- SKP (R225): the latch is forced Up whether or not the skip is taken. -/
def execSkp (x : Reg) (s : State) : Host.Outcome State Fault Refusal :=
  .next ((s.setKey (s.keyIndex x) false).skipIf (s.getKey (s.keyIndex x)))

/-- SKNP (R226). -/
def execSknp (x : Reg) (s : State) : Host.Outcome State Fault Refusal :=
  .next ((s.setKey (s.keyIndex x) false).skipIf (!s.getKey (s.keyIndex x)))

end Sys2Proof.Machine
end

