-- ==== Sys2Proof/Machine/Step.lean ====
section
/-! DEFINITION. One step: latch test, fetch, decode, execute (40_step_cycle.md R120 to R124). -/

namespace Sys2Proof.Machine

/-- The engine's part of a step, before the inputs of the step are used up. -/
def engineStep (s : State) : Host.Outcome State Fault Refusal :=
  match s.fault with
  | some _ => .next (latchedStep s)
  | none =>
    match s.fetch with
    | .error _ => .next (illegalStep s)
    | .ok i => exec i s

/-- `step`: every step uses up the inputs the host supplied for it (46_host_operations.md R246, R247; log 5). -/
def step (s : State) : Host.Outcome State Fault Refusal :=
  match engineStep s with
  | .next t => .next t.nextInput
  | .fault r => .fault r
  | .refused r => .refused r

/-- `step(state, now_ms, rnd)` of R120: a step with the inputs the host supplies for it. -/
def stepWith (nowMs : Nat) (rnd : Byte) (s : State) : Host.Outcome State Fault Refusal :=
  step (s.supply nowMs rnd)

/-- The state in which the 16-bit word `w` stands at the program counter, high byte first, so that the next step
fetches and runs it. A latched machine fetches nothing, so the latch is cleared. -/
def State.withFetchWord (s : State) (nbits w : Nat) : State := s.storeFetchWord (w % 2 ^ nbits % 65536)

end Sys2Proof.Machine
end

