-- ==== Sys2Proof/Machine/HostOps.lean ====
section
/-! DEFINITION. The host's operations on the machine between steps (46_host_operations.md), and reset with a
program image (70_reset_and_hazards.md R290, R291). -/

namespace Sys2Proof.Machine

/-- `press(k)`, 0 ≤ k ≤ 15 (R241); an index above 15 is no operation (R244). -/
def press (k : Fin 16) (s : State) : State := s.setKey k true

/-- `release(k)`, 0 ≤ k ≤ 15 (R242). -/
def release (k : Fin 16) (s : State) : State := s.setKey k false

/-- What `drain()` returns: FULL_REDRAW and the triples, oldest first (R243). -/
structure Drained where
  fullRedraw : Bool
  delta : List Delta
  deriving DecidableEq, Repr

/-- `drain()`: the pair as it stood, and the state with both cleared (R243). -/
def drain (s : State) : Drained × State :=
  (⟨s.fullRedraw, s.delta⟩, s.setDisplay s.fb [] false)

/-- What the host may observe between steps (R245). -/
structure Observation where
  fb : Framebuffer
  st : Byte
  fault : Option Fatal
  deriving DecidableEq, Repr

/-- Observation changes nothing (R245). -/
def observe (s : State) : Observation := ⟨s.fb, s.st, s.fault⟩

/-- The operations of the host between steps that change the state (R240). -/
inductive HostOp where
  | press (k : Fin 16)
  | release (k : Fin 16)
  | drain
  | supply (nowMs : Nat) (rnd : Byte)
  deriving DecidableEq, Repr

/-- The state a host operation leaves. -/
def applyHost (op : HostOp) (s : State) : State :=
  match op with
  | .press k => press k s
  | .release k => release k s
  | .drain => (drain s).2
  | .supply nowMs rnd => s.supply nowMs rnd

/-- Why `reset` creates no machine. -/
inductive ResetError where
  /-- OversizedProgram (60_exceptions.md R267): raised by `resetWith`. Safe: the spec names it. -/
  | oversizedProgram
  deriving DecidableEq, Repr

/-- MEM after reset with a font table of 80 bytes and a program image (R290): the font covers every address at which
a blank byte is not zero. -/
def initialMem (font : Vector Byte 80) (program : List Byte) : Memory :=
  (Memory.load [] Config.fontStart font.toList).load Config.programStart program

/-- `reset(program)` of the machine with the parameters STACK_DEPTH and FONT (00_scope.md R7, R290, R291): an image
over 3584 bytes is rejected and no machine results. -/
def resetWith (p : Config.Params) (program : List Byte) : Except ResetError State :=
  if Config.maxProgram < program.length then .error .oversizedProgram
  else .ok ((State.reset.setMem (initialMem p.font program)).setStackDepth p.stackDepth)

/-- `reset(program)` of this hardware. -/
def resetProgram (program : List Byte) : Except ResetError State := resetWith Config.params program

end Sys2Proof.Machine
end

