-- ==== Sys2Proof/Safety.lean ====
section
/-! DEFINITION. The terms in which claims about the machine are stated: what a run is, when a machine is running,
what part of the state stayed the same, and the invariant. -/

namespace Sys2Proof.Machine

/-! ## Runs (40_step_cycle.md R127, 20_memory.md R76) -/

/-- The machine is not latched (60_exceptions.md R263: a latched state is never a final state of a successful
run). -/
def State.running (s : State) : Prop := s.fault = none

/-- One action of the driver. -/
inductive Action where
  | host (op : HostOp)
  | step
  deriving DecidableEq, Repr

/-- The state after one action. -/
def act (a : Action) (s : State) : Host.Outcome State Fault Refusal :=
  match a with
  | .host op => .next (applyHost op s)
  | .step => step s

/-- The state after a list of actions, in the order the driver chose. -/
def runActions : List Action → State → Host.Outcome State Fault Refusal
  | [], s => .next s
  | a :: rest, s =>
    match act a s with
    | .next t => runActions rest t
    | .fault r => .fault r
    | .refused r => .refused r

/-- The states that some run reaches from a reset, whatever the parameters (00_scope.md R7). -/
inductive Reachable : State → Prop where
  | reset (p : Config.Params) (program : List Byte) (s : State) (hp : p.wf = true)
      (h : resetWith p program = .ok s) : Reachable s
  | act (a : Action) (s t : State) (hs : Reachable s) (h : act a s = .next t) : Reachable t

/-! ## Frames: what stayed the same, part by part of 10_state.md R20 -/

/-- A part of the state; `depth` and `inputs` are the model's own fields. -/
inductive Part where
  | V | I | pc | stack | mem | fb | delta | fullRedraw | timer | sound | key | fault | depth | inputs
  deriving DecidableEq, Repr

/-- A part reads in `t` as it read in `s`; memory byte by byte, at every address. -/
def SamePart (s t : State) : Part → Prop
  | .V => ∀ r, t.getV r = s.getV r
  | .I => t.I = s.I
  | .pc => t.pc = s.pc
  | .stack => t.stack = s.stack
  | .mem => ∀ a, t.readByte a = s.readByte a
  | .fb => ∀ px py, fbGet t.fb px py = fbGet s.fb px py
  | .delta => t.delta = s.delta
  | .fullRedraw => t.fullRedraw = s.fullRedraw
  | .timer => t.dtStart = s.dtStart ∧ t.dtT0 = s.dtT0
  | .sound => t.st = s.st
  | .key => ∀ k, t.getKey k = s.getKey k
  | .fault => t.fault = s.fault
  | .depth => t.stackDepth = s.stackDepth
  | .inputs => t.inputs = s.inputs ∧ t.inputIndex = s.inputIndex

/-- Every part but those listed is the same. -/
def SameBut (changed : List Part) (s t : State) : Prop := ∀ p, p ∉ changed → SamePart s t p

/-- Every register but those listed is the same. -/
def SameRegsBut (changed : List Reg) (s t : State) : Prop := ∀ r, r ∉ changed → t.getV r = s.getV r

/-- `pc <- pc + k` where the sum needs no wrap. (What happens at the wrap is the spec's own decision D2: see the
obligation `PcEffectOfEveryInstruction`.) -/
def PcPlus (k : Nat) (s t : State) : Prop := s.pc.toNat + k < 65536 → t.pc.toNat = s.pc.toNat + k

/-- The state after an outcome, with a change made to it: for comparing two runs. -/
def mapNext (f : State → State) : Host.Outcome State Fault Refusal → Host.Outcome State Fault Refusal
  | .next t => .next (f t)
  | .fault r => .fault r
  | .refused r => .refused r

/-! ## What a sprite covers (44_display.md R203), said of pixels instead of loops -/

/-- The sprite of `n` rows at (x0, y0) has a 1 bit over the pixel. -/
def covers (s : State) (x0 y0 n : Nat) (px : Fin 64) (py : Fin 32) : Bool :=
  decide (x0 ≤ px.val ∧ px.val < x0 + 8 ∧ y0 ≤ py.val ∧ py.val < y0 + n) &&
    (s.dataByte (py.val - y0)).getLsbD (7 - (px.val - x0))

/-- The triples of the covered pixels, row by row from the top, within a row from the leftmost column, each with
the negation of the pixel as it is in `s` (44_display.md R206). -/
def flipsOf (s : State) (x0 y0 n : Nat) : List Delta :=
  (List.finRange 32).flatMap fun py =>
    ((List.finRange 64).filter fun px => covers s x0 y0 n px py).map fun px => ⟨px, py, !fbGet s.fb px py⟩

/-! ## The invariant -/

/-- What FAULT records is true of the frozen state: the record's address is the pc and its word is the word that
stands there, and the word and the stack are as the record's kind says (60_exceptions.md R261, R262). -/
def FaultTruthful (s : State) : Prop :=
  ∀ r, s.fault = some r → r.pc = s.pc ∧ r.word = s.fetchWord ∧
    match r.kind with
    | .unrecognizedOpcode => decodeWord r.word = .error (.illegal r.word)
    | .stackUnderflow => r.word = 0x00EE#16 ∧ s.stack = []
    | .stackOverflow => (∃ nnn, decodeWord r.word = .ok (.call nnn)) ∧ s.stackDepth = some s.stack.length

/-- The stack holds at most STACK_DEPTH entries, whatever STACK_DEPTH is (10_state.md R20, R30). -/
def StackBounded (s : State) : Prop := ∀ d, s.stackDepth = some d → s.stack.length ≤ d

/-- The invariant of the machine: memory is in canonical form, I is at most 0xFFF (10_state.md R27), STACK_DEPTH is
positive or unbounded (00_scope.md R7) and the stack holds at most that many entries, and the fault latch is truthful. -/
structure Inv (s : State) : Prop where
  mem : s.mem.wf = true
  index : s.I.toNat ≤ 0xFFF
  depth : s.stackDepth ≠ some 0
  stack : StackBounded s
  fault : FaultTruthful s

end Sys2Proof.Machine
end

