-- ==== Sys2Proof/Certificates/Slice0/Obligations.lean ====
section
/-! DEFINITION. The statements for the provers. `SameBut ps s t` says that every part of the state but those in
`ps` reads in `t` as in `s` (memory byte by byte, at every address); `PcPlus k s t` says `pc <- pc + k` where the
sum needs no wrap (the wrap is the spec's own decision D2 and stands in `PcEffectOfEveryInstruction` alone).
D<n> is a decision of spec/92_eei_decisions.md, which the spec marks as its own choice; log <n> is the file
notes/assumptions/<n>.md. -/

open Sys2Proof Sys2Proof.Machine

/-! ## One statement per instruction: its word, its effect, its flags, its frame -/

/-- R201, CLS: every pixel off, pc + 2, nothing else. That DELTA is emptied and FULL_REDRAW set is the spec's own
decision D10 (log 6). -/
def Obligations.ClearScreenRule : Prop :=
  decodeWord 0x00E0#16 = .ok .cls ∧
  ∀ s : State, ∃ t, exec .cls s = .next t ∧
    (∀ px py, fbGet t.fb px py = false) ∧ t.delta = [] ∧ t.fullRedraw = true ∧
    PcPlus 2 s t ∧ SameBut [.fb, .delta, .fullRedraw, .pc] s t

/-- R140, RET: with entries on the stack the last one is popped and pc is it plus 2 (modulo 65536: decision D2);
with an empty stack the fatal error StackUnderflow is recorded in FAULT and nothing else changes (the latch is
decision D6, log 1). -/
def Obligations.ReturnRule : Prop :=
  decodeWord 0x00EE#16 = .ok .ret ∧
  (∀ (s : State) (rest : List Word) (r : Word), s.stack = rest ++ [r] →
    ∃ t, exec .ret s = .next t ∧ t.stack = rest ∧ t.pc.toNat = (r.toNat + 2) % 65536 ∧
      SameBut [.stack, .pc] s t) ∧
  (∀ s : State, s.stack = [] →
    ∃ t, exec .ret s = .next t ∧ t.fault = some ⟨.stackUnderflow, 0x00EE#16, s.pc⟩ ∧ SameBut [.fault] s t)

/-- R141, JP: pc is the zero-extended address, nothing else changes; a jump to itself changes no state. -/
def Obligations.JumpRule : Prop :=
  ∀ nnn : Addr, decodeWord (BitVec.ofNat 16 (0x1000 + nnn.toNat)) = .ok (.jp nnn) ∧
  ∀ s : State, ∃ t, exec (.jp nnn) s = .next t ∧
    t.pc.toNat = nnn.toNat ∧ SameBut [.pc] s t ∧ (s.pc.toNat = nnn.toNat → t = s)

/-- R142, CALL: while the stack holds fewer than STACK_DEPTH entries (always, where STACK_DEPTH is unbounded) the address
of this CALL is pushed and pc is the zero-extended address; with STACK_DEPTH entries the fatal error StackOverflow is
recorded and nothing else changes. STACK_DEPTH and the overflow are decision D5 (log 2), the latch is decision D6
(log 1). -/
def Obligations.CallRule : Prop :=
  ∀ nnn : Addr, decodeWord (BitVec.ofNat 16 (0x2000 + nnn.toNat)) = .ok (.call nnn) ∧
  (∀ s : State, (∀ d, s.stackDepth = some d → s.stack.length < d) →
    ∃ t, exec (.call nnn) s = .next t ∧ t.stack = s.stack ++ [s.pc] ∧ t.pc.toNat = nnn.toNat ∧
      SameBut [.stack, .pc] s t) ∧
  (∀ s : State, s.stackDepth = some s.stack.length →
    ∃ t, exec (.call nnn) s = .next t ∧
      t.fault = some ⟨.stackOverflow, BitVec.ofNat 16 (0x2000 + nnn.toNat), s.pc⟩ ∧ SameBut [.fault] s t)

/-- R143, SEI: skip if V[x] equals the immediate; only pc changes. -/
def Obligations.SkipIfEqualImmediateRule : Prop :=
  ∀ (x : Reg) (nn : Byte), decodeWord (BitVec.ofNat 16 (0x3000 + x.val * 256 + nn.toNat)) = .ok (.sei x nn) ∧
  ∀ s : State, ∃ t, exec (.sei x nn) s = .next t ∧
    (s.getV x = nn → PcPlus 4 s t) ∧ (s.getV x ≠ nn → PcPlus 2 s t) ∧ SameBut [.pc] s t

/-- R144, SNEI: skip if V[x] differs from the immediate; only pc changes. -/
def Obligations.SkipIfNotEqualImmediateRule : Prop :=
  ∀ (x : Reg) (nn : Byte), decodeWord (BitVec.ofNat 16 (0x4000 + x.val * 256 + nn.toNat)) = .ok (.snei x nn) ∧
  ∀ s : State, ∃ t, exec (.snei x nn) s = .next t ∧
    (s.getV x ≠ nn → PcPlus 4 s t) ∧ (s.getV x = nn → PcPlus 2 s t) ∧ SameBut [.pc] s t

/-- R161, LDI: V[x] is the immediate, for every x, VF among them. -/
def Obligations.LoadImmediateRule : Prop :=
  ∀ (x : Reg) (nn : Byte), decodeWord (BitVec.ofNat 16 (0x6000 + x.val * 256 + nn.toNat)) = .ok (.ldi x nn) ∧
  ∀ s : State, ∃ t, exec (.ldi x nn) s = .next t ∧
    t.getV x = nn ∧ SameRegsBut [x] s t ∧ PcPlus 2 s t ∧ SameBut [.V, .pc] s t

/-- R162, ADDI: V[x] is the sum modulo 256; no flag is written. -/
def Obligations.AddImmediateRule : Prop :=
  ∀ (x : Reg) (nn : Byte), decodeWord (BitVec.ofNat 16 (0x7000 + x.val * 256 + nn.toNat)) = .ok (.addi x nn) ∧
  ∀ s : State, ∃ t, exec (.addi x nn) s = .next t ∧
    (t.getV x).toNat = ((s.getV x).toNat + nn.toNat) % 256 ∧ SameRegsBut [x] s t ∧
    PcPlus 2 s t ∧ SameBut [.V, .pc] s t

/-- R163, MOV: V[x] is V[y]; with x = y nothing but pc changes. -/
def Obligations.CopyRegisterRule : Prop :=
  ∀ x y : Reg, decodeWord (BitVec.ofNat 16 (0x8000 + x.val * 256 + y.val * 16)) = .ok (.mov x y) ∧
  ∀ s : State, ∃ t, exec (.mov x y) s = .next t ∧
    t.getV x = s.getV y ∧ SameRegsBut [x] s t ∧ (x = y → SameBut [.pc] s t) ∧
    PcPlus 2 s t ∧ SameBut [.V, .pc] s t

/-- R164, AND: V[x] is the bitwise and; no flag is written. -/
def Obligations.BitwiseAndRule : Prop :=
  ∀ x y : Reg, decodeWord (BitVec.ofNat 16 (0x8002 + x.val * 256 + y.val * 16)) = .ok (.and x y) ∧
  ∀ s : State, ∃ t, exec (.and x y) s = .next t ∧
    (∀ k, (t.getV x).getLsbD k = ((s.getV x).getLsbD k && (s.getV y).getLsbD k)) ∧ SameRegsBut [x] s t ∧
    (x = y → SameBut [.pc] s t) ∧ PcPlus 2 s t ∧ SameBut [.V, .pc] s t

/-- R165, ADD: V[x] is the sum modulo 256 and VF the carry. That VF is written last, so that for x = 0xF it ends as the
carry and the old VF is an operand, is decision D17 (log 6). -/
def Obligations.AddWithCarryRule : Prop :=
  ∀ x y : Reg, decodeWord (BitVec.ofNat 16 (0x8004 + x.val * 256 + y.val * 16)) = .ok (.add x y) ∧
  ∀ s : State, ∃ t, exec (.add x y) s = .next t ∧
    (x ≠ VF → (t.getV x).toNat = ((s.getV x).toNat + (s.getV y).toNat) % 256) ∧
    (t.getV VF).toNat = (if (s.getV x).toNat + (s.getV y).toNat > 255 then 1 else 0) ∧
    SameRegsBut [x, VF] s t ∧ PcPlus 2 s t ∧ SameBut [.V, .pc] s t

/-- R166, SUB: V[x] is the difference modulo 256 and VF is 0 on a borrow, else 1. That VF is written last, so that for
x = 0xF it ends as the flag and the old VF is an operand, is decision D17 (log 6). -/
def Obligations.SubtractWithNotBorrowRule : Prop :=
  ∀ x y : Reg, decodeWord (BitVec.ofNat 16 (0x8005 + x.val * 256 + y.val * 16)) = .ok (.sub x y) ∧
  ∀ s : State, ∃ t, exec (.sub x y) s = .next t ∧
    (x ≠ VF → (t.getV x).toNat = if (s.getV y).toNat ≤ (s.getV x).toNat
      then (s.getV x).toNat - (s.getV y).toNat else (s.getV x).toNat + 256 - (s.getV y).toNat) ∧
    (t.getV VF).toNat = (if (s.getV x).toNat < (s.getV y).toNat then 0 else 1) ∧
    SameRegsBut [x, VF] s t ∧ PcPlus 2 s t ∧ SameBut [.V, .pc] s t

/-- R167, SHR: V[x] is halved and VF is its low bit before the shift, also for x = 0xF (decision D17, conflict C3);
y is not read: the state after is the same for every y (decision D16; log 6). -/
def Obligations.ShiftRightRule : Prop :=
  ∀ x y : Reg, decodeWord (BitVec.ofNat 16 (0x8006 + x.val * 256 + y.val * 16)) = .ok (.shr x y) ∧
  ∀ s : State, ∃ t, exec (.shr x y) s = .next t ∧ (∀ z : Reg, exec (.shr x z) s = .next t) ∧
    (x ≠ VF → (t.getV x).toNat = (s.getV x).toNat / 2) ∧ (t.getV VF).toNat = (s.getV x).toNat % 2 ∧
    SameRegsBut [x, VF] s t ∧ PcPlus 2 s t ∧ SameBut [.V, .pc] s t

/-- R145, SNE: skip if V[x] differs from V[y]; with x = y no skip; only pc changes. -/
def Obligations.SkipIfRegistersDifferRule : Prop :=
  ∀ x y : Reg, decodeWord (BitVec.ofNat 16 (0x9000 + x.val * 256 + y.val * 16)) = .ok (.sne x y) ∧
  ∀ s : State, ∃ t, exec (.sne x y) s = .next t ∧
    (s.getV x ≠ s.getV y → PcPlus 4 s t) ∧ (s.getV x = s.getV y → PcPlus 2 s t) ∧ SameBut [.pc] s t

/-- R180, LDIX: I is the zero-extended address. -/
def Obligations.LoadIndexRule : Prop :=
  ∀ nnn : Addr, decodeWord (BitVec.ofNat 16 (0xA000 + nnn.toNat)) = .ok (.ldix nnn) ∧
  ∀ s : State, ∃ t, exec (.ldix nnn) s = .next t ∧
    t.I.toNat = nnn.toNat ∧ PcPlus 2 s t ∧ SameBut [.I, .pc] s t

/-- R168, RND: V[x] is the immediate and the random byte of the step, whatever that byte is (decision D13; where
the host supplies none it is a free value, log 5). -/
def Obligations.RandomByteRule : Prop :=
  ∀ (x : Reg) (nn : Byte), decodeWord (BitVec.ofNat 16 (0xC000 + x.val * 256 + nn.toNat)) = .ok (.rnd x nn) ∧
  ∀ s : State, (∀ (n : Nat) (v : Byte), (s.supply n v).rnd = v) ∧
    ∃ t, exec (.rnd x nn) s = .next t ∧
      (∀ k, (t.getV x).getLsbD k = (nn.getLsbD k && s.rnd.getLsbD k)) ∧ SameRegsBut [x] s t ∧
      PcPlus 2 s t ∧ SameBut [.V, .pc] s t

/-- R203, DRW, as a law about pixels instead of loops: every pixel the sprite covers is flipped and no other; VF is
1 exactly when a covered pixel was on; DELTA receives the covered pixels row by row from the left with their new
states; I, FULL_REDRAW and the rest are unchanged, VF is read as a coordinate before it is written. That the byte
addresses wrap modulo 4096 is decision D1, that the coordinates are exact sums is decision D9, the order of DELTA is
decision D11, that I is unchanged is D15, that an old VF is the coordinate is D17, that n = 0 draws no row is D24
(log 6). -/
def Obligations.DrawSpriteRule : Prop :=
  ∀ (x y : Reg) (n : Nibble),
    decodeWord (BitVec.ofNat 16 (0xD000 + x.val * 256 + y.val * 16 + n.toNat)) = .ok (.drw x y n) ∧
  ∀ s : State, ∃ t, exec (.drw x y n) s = .next t ∧
    (∀ px py, fbGet t.fb px py =
      (fbGet s.fb px py ^^ covers s (s.getV x).toNat (s.getV y).toNat n.toNat px py)) ∧
    ((t.getV VF = 1 ∧ ∃ px py, covers s (s.getV x).toNat (s.getV y).toNat n.toNat px py = true ∧
        fbGet s.fb px py = true) ∨
      (t.getV VF = 0 ∧ ∀ px py, covers s (s.getV x).toNat (s.getV y).toNat n.toNat px py = true →
        fbGet s.fb px py = false)) ∧
    t.delta = s.delta ++ flipsOf s (s.getV x).toNat (s.getV y).toNat n.toNat ∧
    SameRegsBut [VF] s t ∧ PcPlus 2 s t ∧ SameBut [.V, .fb, .delta, .pc] s t

/-- R225, SKP: the key is the low nibble of V[x] (decision D8, log 6); its latch ends Up; the skip is taken if it was
Down; the other latches keep their state. -/
def Obligations.SkipIfKeyDownRule : Prop :=
  ∀ x : Reg, decodeWord (BitVec.ofNat 16 (0xE09E + x.val * 256)) = .ok (.skp x) ∧
  ∀ (s : State) (k : Fin 16), k.val = (s.getV x).toNat % 16 →
    ∃ t, exec (.skp x) s = .next t ∧ t.getKey k = false ∧ (∀ j, j ≠ k → t.getKey j = s.getKey j) ∧
      (s.getKey k = true → PcPlus 4 s t) ∧ (s.getKey k = false → PcPlus 2 s t) ∧ SameBut [.key, .pc] s t

/-- R226, SKNP: as SKP (decision D8 for the key), the skip is taken if the latch was Up. -/
def Obligations.SkipIfKeyUpRule : Prop :=
  ∀ x : Reg, decodeWord (BitVec.ofNat 16 (0xE0A1 + x.val * 256)) = .ok (.sknp x) ∧
  ∀ (s : State) (k : Fin 16), k.val = (s.getV x).toNat % 16 →
    ∃ t, exec (.sknp x) s = .next t ∧ t.getKey k = false ∧ (∀ j, j ≠ k → t.getKey j = s.getKey j) ∧
      (s.getKey k = false → PcPlus 4 s t) ∧ (s.getKey k = true → PcPlus 2 s t) ∧ SameBut [.key, .pc] s t

/-- R222 with R220, GDT: V[x] is max(0, DT_START - floor(elapsed × 60 / 1000)); an earlier time than DT_T0 and whole
milliseconds are decision D12 (log 6). -/
def Obligations.ReadDelayTimerRule : Prop :=
  ∀ x : Reg, decodeWord (BitVec.ofNat 16 (0xF007 + x.val * 256)) = .ok (.gdt x) ∧
  ∀ s : State, (∀ (n : Nat) (v : Byte), (s.supply n v).nowMs = n) ∧
    ∃ t, exec (.gdt x) s = .next t ∧
      (t.getV x).toNat = s.dtStart.toNat - (s.nowMs - s.dtT0) * 60 / 1000 ∧ SameRegsBut [x] s t ∧
      PcPlus 2 s t ∧ SameBut [.V, .pc] s t

/-- R223, SDT: both timer fields are overwritten; a GDT in any later state with these fields and the same time reads
V[x] of this SDT, and the timer always reads 0 if V[x] is 0. -/
def Obligations.StartDelayTimerRule : Prop :=
  ∀ x : Reg, decodeWord (BitVec.ofNat 16 (0xF015 + x.val * 256)) = .ok (.sdt x) ∧
  ∀ s : State, ∃ t, exec (.sdt x) s = .next t ∧
    t.dtStart = s.getV x ∧ t.dtT0 = s.nowMs ∧
    (∀ (y : Reg) (w : State), w.dtStart = t.dtStart → w.dtT0 = t.dtT0 → w.nowMs = s.nowMs →
      ∃ u, exec (.gdt y) w = .next u ∧ u.getV y = s.getV x) ∧
    (s.getV x = 0 → ∀ n, dtValue t.dtStart t.dtT0 n = 0) ∧
    PcPlus 2 s t ∧ SameBut [.timer, .pc] s t

/-- R224, SST: ST is V[x]; ST keeps its value over every host operation and every step that does not run SST; and no
instruction reads it: with another ST an instruction other than SST leaves the same state, with that other ST. -/
def Obligations.SetSoundTimerRule : Prop :=
  (∀ x : Reg, decodeWord (BitVec.ofNat 16 (0xF018 + x.val * 256)) = .ok (.sst x) ∧
    ∀ s : State, ∃ t, exec (.sst x) s = .next t ∧
      t.st = s.getV x ∧ PcPlus 2 s t ∧ SameBut [.sound, .pc] s t) ∧
  (∀ (a : Action) (s t : State), act a s = .next t →
    (a = .step → ∀ x, decodeWord s.fetchWord ≠ .ok (.sst x)) → t.st = s.st) ∧
  (∀ (i : Instr) (s : State) (v : Byte), (∀ x, i ≠ .sst x) →
    exec i (s.setSt v) = mapNext (fun t => t.setSt v) (exec i s))

/-- R181, ADDIX: I is the sum modulo 4096 and VF says whether the sum exceeded 4095. That VF is written last and an old
VF is the addend where x = 0xF is decision D17 (log 6). -/
def Obligations.AddToIndexRule : Prop :=
  ∀ x : Reg, decodeWord (BitVec.ofNat 16 (0xF01E + x.val * 256)) = .ok (.addix x) ∧
  ∀ s : State, ∃ t, exec (.addix x) s = .next t ∧
    t.I.toNat = (s.I.toNat + (s.getV x).toNat) % 4096 ∧
    (t.getV VF).toNat = (if s.I.toNat + (s.getV x).toNat > 4095 then 1 else 0) ∧
    SameRegsBut [VF] s t ∧ PcPlus 2 s t ∧ SameBut [.V, .I, .pc] s t

/-- R182, FONT: I is the glyph address of the digit in the low nibble of V[x]; the nibble for V[x] above 15 is
decision D7 (log 6). -/
def Obligations.GlyphAddressRule : Prop :=
  ∀ x : Reg, decodeWord (BitVec.ofNat 16 (0xF029 + x.val * 256)) = .ok (.font x) ∧
  ∀ s : State, ∃ t, exec (.font x) s = .next t ∧
    t.I.toNat = 0x050 + 5 * ((s.getV x).toNat % 16) ∧ PcPlus 2 s t ∧ SameBut [.I, .pc] s t

/-- R183, BCD: the three decimal digits of V[x] stand at I, I + 1, I + 2, every other byte and I are as before. The
stored addresses are `s.dataAddr 0`, `1`, `2`, reduced by `memIndex` modulo 4096 (decision D1); I unchanged is decision
D15 (log 6). -/
def Obligations.StoreDecimalDigitsRule : Prop :=
  ∀ x : Reg, decodeWord (BitVec.ofNat 16 (0xF033 + x.val * 256)) = .ok (.bcd x) ∧
  ∀ s : State, s.mem.wf = true → ∃ t, exec (.bcd x) s = .next t ∧
    (∀ a, memIndex a = memIndex (s.dataAddr 0) → (t.readByte a).toNat = (s.getV x).toNat / 100) ∧
    (∀ a, memIndex a = memIndex (s.dataAddr 1) → (t.readByte a).toNat = (s.getV x).toNat / 10 % 10) ∧
    (∀ a, memIndex a = memIndex (s.dataAddr 2) → (t.readByte a).toNat = (s.getV x).toNat % 10) ∧
    (∀ a, (∀ k, k < 3 → memIndex a ≠ memIndex (s.dataAddr k)) → t.readByte a = s.readByte a) ∧
    s.dataAddr 0 = s.I.toNat ∧ s.dataAddr 1 = s.I.toNat + 1 ∧ s.dataAddr 2 = s.I.toNat + 2 ∧
    PcPlus 2 s t ∧ SameBut [.mem, .pc] s t

/-- R184, LDM: V[k] for every k up to and including x is the byte at I + k (modulo 4096: decision D1), the registers
above keep their values, I is unchanged (decision D15, log 6). -/
def Obligations.LoadRegistersRule : Prop :=
  ∀ x : Reg, decodeWord (BitVec.ofNat 16 (0xF065 + x.val * 256)) = .ok (.ldm x) ∧
  ∀ s : State, ∃ t, exec (.ldm x) s = .next t ∧
    (∀ k : Reg, k ≤ x → t.getV k = s.readByte ((s.I.toNat + k.val) % 4096)) ∧
    (∀ k : Reg, x < k → t.getV k = s.getV k) ∧ PcPlus 2 s t ∧ SameBut [.V, .pc] s t

/-! ## Encoding -/

/-- Decode and encode agree: for every instruction, with every operand, and any bytes after it. -/
def Obligations.DecodeInvertsEncode : Prop :=
  ∀ (i : Instr) (rest : List Byte), decodeBytes (encodeBytes i ++ rest) = .ok (i, rest)

/-- A word that decodes is the word of what it decodes to: no two words are one instruction, no bit is dropped. It rests
on decision D18, that every fixed digit of a pattern is checked (log 6). -/
def Obligations.EncodeInvertsDecode : Prop :=
  ∀ (w : Word) (i : Instr), decodeWord w = .ok i → encode i = w

/-- R94: a row of the opcode table (mask, match) selects a word exactly when the word decodes to the row's
instruction, and selects no Illegal word (every fixed digit checked: decision D18, log 6). -/
def Obligations.TableRowSelectsExactlyItsWords : Prop :=
  ∀ (w : Word) (r : OpRow), r ∈ opTable →
    (r.selects w = true ↔ ∃ i, decodeWord w = .ok i ∧ i.mnemonic = r.mnemonic)

/-- R100: the Illegal words, exhaustively (every fixed digit checked: decision D18, log 6). -/
def Obligations.IllegalWordsExhaustively : Prop :=
  ∀ w : Word, decodeWord w = .error (.illegal w) ↔
    (w.toNat / 4096 = 0 ∧ w.toNat ≠ 0x00E0 ∧ w.toNat ≠ 0x00EE) ∨
    w.toNat / 4096 = 5 ∨
    (w.toNat / 4096 = 8 ∧ w.toNat % 16 ∈ [1, 3, 7, 8, 9, 10, 11, 12, 13, 14, 15]) ∨
    (w.toNat / 4096 = 9 ∧ w.toNat % 16 ≠ 0) ∨
    w.toNat / 4096 = 0xB ∨
    (w.toNat / 4096 = 0xE ∧ w.toNat % 256 ∉ [0x9E, 0xA1]) ∨
    (w.toNat / 4096 = 0xF ∧ w.toNat % 256 ∉ [0x07, 0x15, 0x18, 0x1E, 0x29, 0x33, 0x65])

/-- Eight words of the families 1, 3, 8, 9, A, D, E and F, written out from the vectors of 95_test_vectors.md 2.1, decode
to what they stand for. That 0x9AB1 is Illegal rests on decision D18 (log 6; vector E26). -/
def Obligations.SampleWordsDecode : Prop :=
  decodeWord 0x1FFF#16 = .ok (.jp 0xFFF#12) ∧ decodeWord 0x3A7F#16 = .ok (.sei 10 0x7F#8) ∧
  decodeWord 0x8AB5#16 = .ok (.sub 10 11) ∧ decodeWord 0x9AB1#16 = .error (.illegal 0x9AB1#16) ∧
  decodeWord 0xA123#16 = .ok (.ldix 0x123#12) ∧ decodeWord 0xD125#16 = .ok (.drw 1 2 5#4) ∧
  decodeWord 0xE1A1#16 = .ok (.sknp 1) ∧ decodeWord 0xF165#16 = .ok (.ldm 1)

/-- R103 (the syntax is the spec's own choice, decision D19): every instruction is well-formed and its line assembles
to it, and a line that assembles to an instruction is the line that spells it. -/
def Obligations.AssemblerSpellsEachInstruction : Prop :=
  (∀ i : Instr, i.wellFormed = true ∧ assemble i.spell = some i) ∧
  (∀ (l : AsmLine) (i : Instr), assemble l = some i → l = i.spell)

/-! ## The step -/

/-- When the machine is not latched and the bytes at the program counter decode to an instruction, the step is that
instruction at that state, with the step's inputs used up (log 5). The address of the second byte wraps modulo 4096
(decision D1). -/
def Obligations.StepRunsDecodedInstruction : Prop :=
  ∀ (s : State) (i : Instr), s.fault = none →
    decodeWord (wordOfBytes (s.readByte s.pc.toNat) (s.readByte (s.pc.toNat + 1))) = .ok i →
    step s = mapNext State.nextInput (exec i s)

/-- R123, R101: on an Illegal word the step records UnrecognizedOpcode with the word and its address, reports it as its
outcome, and changes nothing else. The latch is decision D6 (log 1). -/
def Obligations.IllegalWordIsFatal : Prop :=
  ∀ s : State, s.fault = none → (∃ e, decodeWord s.fetchWord = .error e) →
    ∃ t, step s = .next t ∧ t.fault = some ⟨.unrecognizedOpcode, s.fetchWord, s.pc⟩ ∧
      t.outcome = .fatal ⟨.unrecognizedOpcode, s.fetchWord, s.pc⟩ ∧ SameBut [.fault, .inputs] s t

/-- R121, R263 (decision D6, log 1): once FAULT is set, no run of steps changes any state, and no run of steps and host
operations clears FAULT or changes what only steps can change. -/
def Obligations.LatchedMachineStaysLatched : Prop :=
  ∀ (s : State) (r : Fatal), s.fault = some r →
    (∀ k : Nat, ∃ t, runActions (List.replicate k .step) s = .next t ∧ t.outcome = .fatal r ∧
      SameBut [.inputs] s t) ∧
    (∀ as : List Action, ∃ t, runActions as s = .next t ∧ t.outcome = .fatal r ∧
      SameBut [.delta, .fullRedraw, .key, .inputs] s t)

/-- R125: every step has a next state and uses up its inputs (log 5); on a machine that is not latched it ends Ok, or it
is fatal with the fetched word and its address recorded and no other effect (decision D6, log 1). -/
def Obligations.EveryStepCompletes : Prop :=
  ∀ s : State, ∃ t, step s = .next t ∧ t.inputs = s.inputs.tail ∧ t.inputIndex = s.inputIndex + 1 ∧
    (s.fault = none → t.outcome = .ok ∨
      ∃ r, t.outcome = .fatal r ∧ r.word = s.fetchWord ∧ r.pc = s.pc ∧ SameBut [.fault, .inputs] s t)

/-- R261, R268: a step of a machine that is not latched is fatal exactly when the word is Illegal, or is RET with an
empty stack, or is CALL with STACK_DEPTH entries (decision D5, log 2; the kinds and the latch are decision D6, log 1),
with the kind that says which. A stack of more than STACK_DEPTH entries is no state of the machine, so it is ruled
out. -/
def Obligations.FatalErrorsHappenExactlyWhen : Prop :=
  ∀ s t : State, s.fault = none → StackBounded s → step s = .next t →
    ((∃ r, t.fault = some r ∧ r.kind = .unrecognizedOpcode) ↔
      decodeWord s.fetchWord = .error (.illegal s.fetchWord)) ∧
    ((∃ r, t.fault = some r ∧ r.kind = .stackUnderflow) ↔
      decodeWord s.fetchWord = .ok .ret ∧ s.stack = []) ∧
    ((∃ r, t.fault = some r ∧ r.kind = .stackOverflow) ↔
      (∃ nnn, decodeWord s.fetchWord = .ok (.call nnn)) ∧ s.stackDepth = some s.stack.length)

/-- R126: the step is determined by the state, now_ms and rnd; now_ms is read only by GDT and SDT, and rnd only by RND:
any other change of the inputs changes nothing but the inputs. -/
def Obligations.InputsReadOnlyByThreeInstructions : Prop :=
  ∀ (s u : State), (∃ ins n, u = { s with inputs := ins, inputIndex := n }) →
    (∀ i : Instr, (∀ x, i ≠ .gdt x) → (∀ x, i ≠ .sdt x) → (∀ x nn, i ≠ .rnd x nn) →
      exec i u = mapNext (fun t => { t with inputs := u.inputs, inputIndex := u.inputIndex }) (exec i s)) ∧
    (∀ i : Instr, (∀ x, i ≠ .gdt x) → (∀ x, i ≠ .sdt x) → u.rnd = s.rnd →
      exec i u = mapNext (fun t => { t with inputs := u.inputs, inputIndex := u.inputIndex }) (exec i s)) ∧
    (∀ i : Instr, (∀ x nn, i ≠ .rnd x nn) → u.nowMs = s.nowMs →
      exec i u = mapNext (fun t => { t with inputs := u.inputs, inputIndex := u.inputIndex }) (exec i s)) ∧
    (u.nowMs = s.nowMs → u.rnd = s.rnd →
      step u = mapNext (fun t => { t with inputs := u.inputs.tail, inputIndex := u.inputIndex + 1 }) (step s))

/-- R124: what each instruction leaves in pc, all arithmetic modulo 65536 (R26: the wrap is decision D2), when it does not
end in a fatal error. -/
def Obligations.PcEffectOfEveryInstruction : Prop :=
  ∀ (i : Instr) (s t : State), s.fault = none → exec i s = .next t → t.fault = none →
    t.pc.toNat =
      match i with
      | .jp nnn => nnn.toNat
      | .call nnn => nnn.toNat
      | .ret => ((s.stack.getLastD 0).toNat + 2) % 65536
      | .sei x nn => (s.pc.toNat + if s.getV x = nn then 4 else 2) % 65536
      | .snei x nn => (s.pc.toNat + if s.getV x = nn then 2 else 4) % 65536
      | .sne x y => (s.pc.toNat + if s.getV x = s.getV y then 2 else 4) % 65536
      | .skp x => (s.pc.toNat + if s.getKey (s.keyIndex x) = true then 4 else 2) % 65536
      | .sknp x => (s.pc.toNat + if s.getKey (s.keyIndex x) = true then 2 else 4) % 65536
      | _ => (s.pc.toNat + 2) % 65536

/-! ## Which instruction writes which part of the state -/

/-- R61, R183 (f): an instruction other than BCD changes no byte of memory, and BCD changes only the bytes at the three
addresses it stores to (`s.dataAddr 0`, `1`, `2`, reduced modulo 4096: decision D1). -/
def Obligations.OnlyBcdStoresToMemory : Prop :=
  ∀ (i : Instr) (s t : State), exec i s = .next t → ∀ a, t.readByte a ≠ s.readByte a →
    (∃ x, i = .bcd x) ∧ ∃ k, k < 3 ∧ memIndex a = memIndex (s.dataAddr k)

/-- R27, R28: only LDIX, ADDIX and FONT change I, and each leaves a value of at most 0xFFF. That DRW, BCD and LDM leave I
alone is decision D15, and the bound for FONT rests on decision D7 (log 6). -/
def Obligations.IndexRegisterWriters : Prop :=
  ∀ (i : Instr) (s t : State), exec i s = .next t → t.I ≠ s.I →
    ((∃ nnn, i = .ldix nnn) ∨ (∃ x, i = .addix x) ∨ (∃ x, i = .font x)) ∧ t.I.toNat ≤ 0xFFF

/-- R29: only CALL pushes, and what it pushes is its own address, and only RET pops. The depth is decision D5 (log 2). -/
def Obligations.StackUsers : Prop :=
  ∀ (i : Instr) (s t : State), exec i s = .next t → t.stack ≠ s.stack →
    ((∃ nnn, i = .call nnn) ∧ t.stack = s.stack ++ [s.pc]) ∨ (i = .ret ∧ ∃ r, s.stack = t.stack ++ [r])

/-- R36 to R38: only CLS and DRW change the framebuffer; DELTA is emptied by CLS and extended by DRW and changed by nothing
else; only CLS sets FULL_REDRAW and no instruction clears it (DELTA and FULL_REDRAW at CLS: decision D10, log 6). -/
def Obligations.DisplayWriters : Prop :=
  ∀ (i : Instr) (s t : State), exec i s = .next t →
    (t.fb ≠ s.fb → i = .cls ∨ ∃ x y n, i = .drw x y n) ∧
    (t.delta ≠ s.delta → (i = .cls ∧ t.delta = []) ∨ ((∃ x y n, i = .drw x y n) ∧ ∃ l, t.delta = s.delta ++ l)) ∧
    (t.fullRedraw ≠ s.fullRedraw → i = .cls ∧ t.fullRedraw = true)

/-- R39: SDT writes both fields of the delay timer, GDT reads both and writes neither, and nothing else touches them:
with another start value and start time any other instruction leaves the same state, with those other values. Nothing
ticks: every host operation and every step that does not run SDT leaves both fields, also on a latched machine or an
Illegal word. -/
def Obligations.TimerTouchedOnlyBySdtAndGdt : Prop :=
  (∀ (x : Reg) (s : State), ∃ t, exec (.sdt x) s = .next t ∧ t.dtStart = s.getV x ∧ t.dtT0 = s.nowMs) ∧
  (∀ (x : Reg) (s : State), ∃ t, exec (.gdt x) s = .next t ∧ t.dtStart = s.dtStart ∧ t.dtT0 = s.dtT0 ∧
    (t.getV x).toNat = dtValue s.dtStart s.dtT0 s.nowMs) ∧
  (∀ (i : Instr) (s : State) (v : Byte) (n : Nat), (∀ x, i ≠ .gdt x) → (∀ x, i ≠ .sdt x) →
    exec i (s.setTimer v n) = mapNext (fun t => t.setTimer v n) (exec i s)) ∧
  (∀ (a : Action) (s t : State), act a s = .next t →
    (a = .step → ∀ x, decodeWord s.fetchWord ≠ .ok (.sdt x)) → t.dtStart = s.dtStart ∧ t.dtT0 = s.dtT0)

/-- R41, R241, R242: `press` sets one latch Down and `release` sets one latch Up and neither changes anything else; a
latch goes Down by `press` of it alone, and goes Up by `release` of it or by a step that runs SKP or SKNP on it alone;
SKP and SKNP leave the latch they test Up.
(A step tests the key V[x] where V[x] is at most 15; above 15 see decision D8.) -/
def Obligations.KeyLatchTransitions : Prop :=
  (∀ (k : Fin 16) (s : State), (press k s).getKey k = true ∧ (∀ j, j ≠ k → (press k s).getKey j = s.getKey j) ∧
    SameBut [.key] s (press k s)) ∧
  (∀ (k : Fin 16) (s : State), (release k s).getKey k = false ∧
    (∀ j, j ≠ k → (release k s).getKey j = s.getKey j) ∧ SameBut [.key] s (release k s)) ∧
  (∀ (a : Action) (s t : State) (k : Fin 16), act a s = .next t →
    (s.getKey k = false → t.getKey k = true → a = .host (.press k)) ∧
    (s.getKey k = true → t.getKey k = false → a = .host (.release k) ∨
      (a = .step ∧ s.fault = none ∧ ∃ x, (decodeWord s.fetchWord = .ok (.skp x) ∨
        decodeWord s.fetchWord = .ok (.sknp x)) ∧ ((s.getV x).toNat ≤ 15 → (s.getV x).toNat = k.val)))) ∧
  (∀ (x : Reg) (s : State) (k : Fin 16), (s.getV x).toNat = k.val →
    (∃ t, exec (.skp x) s = .next t ∧ t.getKey k = false) ∧ ∃ t, exec (.sknp x) s = .next t ∧ t.getKey k = false)

/-- R24: ADD, SUB, SHR, ADDIX and DRW leave 0 or 1 in VF, and any other instruction changes VF only as its ordinary
destination V[x] with x = 0xF (LDM with x = 0xF among them). The order for x = 0xF is decision D17 (log 6). -/
def Obligations.FlagRegisterWriters : Prop :=
  ∀ (i : Instr) (s t : State), exec i s = .next t →
    match i with
    | .add _ _ | .sub _ _ | .shr _ _ | .addix _ | .drw _ _ _ => t.getV VF = 0 ∨ t.getV VF = 1
    | .ldi x _ | .addi x _ | .mov x _ | .and x _ | .rnd x _ | .gdt x | .ldm x =>
      t.getV VF ≠ s.getV VF → x = VF
    | _ => ∀ r, t.getV r = s.getV r

/-! ## Memory -/

/-- Two memories in canonical form that read alike at every address are equal data. -/
def Obligations.EqualReadsMeanEqualMemories : Prop :=
  ∀ m m' : Memory, m.wf = true → m'.wf = true → (∀ a, m.read a = m'.read a) → m = m'

/-- R72 (a derivation of the spec's): when BCD stores over the two bytes at the next program counter, the next fetch reads
the digits it stored. -/
def Obligations.StoreSeenByNextFetch : Prop :=
  ∀ (x : Reg) (s : State), s.mem.wf = true → s.I.toNat % 4096 = (s.pc.toNat + 2) % 4096 →
    ∃ t, exec (.bcd x) s = .next t ∧
      t.fetchWord.toNat = (s.getV x).toNat / 100 * 256 + (s.getV x).toNat / 10 % 10

/-! ## The invariant -/

/-- Every step keeps the invariant: memory in canonical form, I at most 0xFFF, a positive or unbounded STACK_DEPTH and at
most that many stack entries, a truthful fault latch (decisions D3, D5, D6; log 1, log 2). -/
def Obligations.StepKeepsInvariant : Prop :=
  ∀ s t : State, Inv s → step s = .next t → Inv t

/-- The state after reset meets the invariant. -/
def Obligations.ResetMeetsInvariant : Prop := Inv State.reset

/-- Every host operation keeps the invariant, and reset meets it with any STACK_DEPTH and FONT that R7 allows and any
program image that is accepted. -/
def Obligations.HostKeepsInvariant : Prop :=
  (∀ (op : HostOp) (s : State), Inv s → Inv (applyHost op s)) ∧
  (∀ (p : Config.Params) (program : List Byte) (s : State), p.wf = true → resetWith p program = .ok s → Inv s)

/-! ## Laws over several instructions -/

/-- R207 (a derivation of the spec's): two draws with the same operands, none of them VF, restore the framebuffer, and if
the first turned a pixel on the second reports a collision. It rests on decisions D9 (clipping of exact sums) and D15 (I
unchanged by the first draw; log 6). -/
def Obligations.SpriteXorRoundTrip : Prop :=
  ∀ (x y : Reg) (n : Nibble) (s : State), x ≠ VF → y ≠ VF →
    ∃ t u, exec (.drw x y n) s = .next t ∧ exec (.drw x y n) t = .next u ∧ u.fb = s.fb ∧
      ((∃ px py, fbGet s.fb px py = false ∧ fbGet t.fb px py = true) → u.getV VF = 1)

/-- R206 (a derivation of the spec's): one draw appends at most 8 × n triples, no two for one pixel, each with the
pixel's new state. -/
def Obligations.SpriteDeltasBounded : Prop :=
  ∀ (x y : Reg) (n : Nibble) (s : State), ∃ t l, exec (.drw x y n) s = .next t ∧ t.delta = s.delta ++ l ∧
    l.length ≤ 8 * n.toNat ∧ (l.map fun d => (d.px, d.py)).Nodup ∧ ∀ d ∈ l, fbGet t.fb d.px d.py = d.on

/-- R221 (a derivation of the spec's; whole milliseconds are decision D12): what GDT reads never exceeds the start value,
is the start value at the start, is 0 once the ticks reach it, and does not increase with time. -/
def Obligations.DelayTimerLaws : Prop :=
  (∀ (start : Byte) (t0 n : Nat), dtValue start t0 n ≤ start.toNat ∧ (n ≤ t0 → dtValue start t0 n = start.toNat) ∧
    (t0 + (1000 * start.toNat + 59) / 60 ≤ n → dtValue start t0 n = 0)) ∧
  (∀ (x : Reg) (s u : State), u.dtStart = s.dtStart → u.dtT0 = s.dtT0 → s.nowMs ≤ u.nowMs →
    ∃ t v, exec (.gdt x) s = .next t ∧ exec (.gdt x) u = .next v ∧ (v.getV x).toNat ≤ (t.getV x).toNat)

/-- R140 with R142: RET right after CALL resumes after the CALL with the stack as before (the depth is decision D5, log 2;
the wrap of pc is decision D2). -/
def Obligations.CallThenReturnResumes : Prop :=
  ∀ (nnn : Addr) (s : State), (∀ d, s.stackDepth = some d → s.stack.length < d) →
    ∃ t u, exec (.call nnn) s = .next t ∧ exec .ret t = .next u ∧
      u.pc.toNat = (s.pc.toNat + 2) % 65536 ∧ SameBut [.pc] s u

/-- R225, R228, R297: a press is seen by one test only: after `press`, the first SKP skips and the second, with no press
between, does not (the key above 15 is decision D8, log 6). -/
def Obligations.KeyPressConsumedOnce : Prop :=
  ∀ (x : Reg) (s : State) (k : Fin 16), k.val = (s.getV x).toNat % 16 →
    ∃ t u, exec (.skp x) (press k s) = .next t ∧ exec (.skp x) t = .next u ∧
      PcPlus 4 s t ∧ PcPlus 2 t u ∧ t.getKey k = false ∧ u.getKey k = false

/-- R243 (decision D10, log 6): drain returns FULL_REDRAW and the triples oldest first, clears both and changes nothing else;
a second drain returns (0, empty). -/
def Obligations.DrainRule : Prop :=
  ∀ s : State, (drain s).1.fullRedraw = s.fullRedraw ∧ (drain s).1.delta = s.delta ∧
    (drain s).2.delta = [] ∧ (drain s).2.fullRedraw = false ∧ SameBut [.delta, .fullRedraw] s (drain s).2 ∧
    (drain (drain s).2).1 = ⟨false, []⟩

/-! ## Reset -/

/-- R44: the state after reset of the empty program. Zero in V, I, ST and FULL_REDRAW is decision D4 (log 4), FAULT none is
decision D6 (log 1), the font bytes are presumed (decision D14, log 3), STACK_DEPTH 16 is decision D5 (log 2). -/
def Obligations.ResetValues : Prop :=
  State.reset.pc = 0x0200#16 ∧ (∀ r, State.reset.getV r = 0) ∧ State.reset.I = 0 ∧ State.reset.stack = [] ∧
  (∀ a, a < 4096 → State.reset.readByte a =
    if 0x050 ≤ a ∧ a < 0x0A0 then Config.font.getD (a - 0x050) 0 else 0) ∧
  Config.font.length = 80 ∧ (∀ px py, fbGet State.reset.fb px py = false) ∧ State.reset.delta = [] ∧
  State.reset.fullRedraw = false ∧ State.reset.dtStart = 0 ∧ State.reset.dtT0 = 0 ∧ State.reset.st = 0 ∧
  (∀ k, State.reset.getKey k = false) ∧ State.reset.fault = none ∧ State.reset.stackDepth = some 16 ∧
  resetProgram [] = .ok State.reset

/-- R291, R267, for every STACK_DEPTH and FONT (R7): an image over 3584 bytes is rejected; any other is accepted and
stands from 0x200 on, with FONT at 0x050 and zeros everywhere else, pc at 0x0200, that STACK_DEPTH, and the rest of the
state as `State.reset` has it; the first step after reset of the empty program is fatal with
UnrecognizedOpcode(0x0000, 0x0200). -/
def Obligations.ResetProgramImage : Prop :=
  ∀ p : Config.Params,
  (∀ program : List Byte,
    (3584 < program.length → resetWith p program = .error .oversizedProgram) ∧
    (program.length ≤ 3584 → ∃ s, resetWith p program = .ok s ∧
      (∀ k (h : k < program.length), s.readByte (0x200 + k) = program[k]) ∧
      (∀ k (h : k < 80), s.readByte (0x050 + k) = p.font[k]) ∧
      (∀ a, a < 4096 → (a < 0x050 ∨ (0x0A0 ≤ a ∧ a < 0x200) ∨ 0x200 + program.length ≤ a) → s.readByte a = 0) ∧
      s.pc = 0x0200#16 ∧ s.stackDepth = p.stackDepth ∧ SameBut [.mem, .depth] State.reset s)) ∧
  (∃ s t, resetWith p [] = .ok s ∧ step s = .next t ∧ t.outcome = .fatal ⟨.unrecognizedOpcode, 0x0000#16, 0x0200#16⟩)

/-! ## The parameter STACK_DEPTH -/

/-- R7, R30 (decision D5, log 2): no step and no host operation changes STACK_DEPTH; and where it is unbounded no run
from a machine that is not latched ever ends in StackOverflow. -/
def Obligations.StackDepthIsFixed : Prop :=
  (∀ (a : Action) (s t : State), act a s = .next t → t.stackDepth = s.stackDepth) ∧
  (∀ (as : List Action) (s t : State), s.fault = none → s.stackDepth = none → runActions as s = .next t →
    ∀ r, t.fault = some r → r.kind ≠ .stackOverflow)
end

