-- ==== Sys2Proof/Laws/Decode.lean ====
section
/-! SUPPORT. The fields of the words the encoder builds, and what each field of a word is as a number. -/

namespace Sys2Proof

theorem fieldFamily_toNat (w : Word) : (fieldFamily w).toNat = w.toNat / 4096 := by
  simp only [fieldFamily, BitVec.extractLsb'_toNat, Nat.shiftRight_eq_div_pow]
  omega

theorem fieldX_val (w : Word) : (fieldX w).val = w.toNat / 256 % 16 := by
  show (w.extractLsb' 8 4).toNat = _
  simp [BitVec.extractLsb'_toNat, Nat.shiftRight_eq_div_pow]

theorem fieldY_val (w : Word) : (fieldY w).val = w.toNat / 16 % 16 := by
  show (w.extractLsb' 4 4).toNat = _
  simp [BitVec.extractLsb'_toNat, Nat.shiftRight_eq_div_pow]

theorem fieldN_toNat (w : Word) : (fieldN w).toNat = w.toNat % 16 := by
  simp [fieldN, BitVec.extractLsb'_toNat]

theorem fieldNN_toNat (w : Word) : (fieldNN w).toNat = w.toNat % 256 := by
  simp [fieldNN, BitVec.extractLsb'_toNat]

theorem fieldNNN_toNat (w : Word) : (fieldNNN w).toNat = w.toNat % 4096 := by
  simp [fieldNNN, BitVec.extractLsb'_toNat]

theorem append_toNat {n m : Nat} (a : BitVec n) (b : BitVec m) : (a ++ b).toNat = a.toNat * 2 ^ m + b.toNat := by
  rw [BitVec.toNat_append, ← Nat.shiftLeft_add_eq_or_of_lt b.isLt, Nat.shiftLeft_eq]

theorem encNNN_toNat (f : Nibble) (nnn : Addr) : (encNNN f nnn).toNat = f.toNat * 4096 + nnn.toNat := by
  unfold encNNN
  rw [append_toNat]
  omega

theorem regBits_toNat (x : Reg) : (regBits x).toNat = x.val := rfl

theorem encXNN_toNat (f : Nibble) (x : Reg) (nn : Byte) :
    (encXNN f x nn).toNat = f.toNat * 4096 + x.val * 256 + nn.toNat := by
  unfold encXNN
  rw [append_toNat, append_toNat, regBits_toNat]
  omega

theorem encXYN_toNat (f : Nibble) (x y : Reg) (n : Nibble) :
    (encXYN f x y n).toNat = f.toNat * 4096 + x.val * 256 + y.val * 16 + n.toNat := by
  unfold encXYN
  rw [append_toNat, append_toNat, append_toNat, regBits_toNat, regBits_toNat]
  omega

/-! ## The fields of an encoded word -/

section
variable (f n : Nibble) (x y : Reg) (nn : Byte) (nnn : Addr)

@[simp] theorem fieldFamily_encNNN : fieldFamily (encNNN f nnn) = f := by
  apply BitVec.eq_of_toNat_eq; rw [fieldFamily_toNat, encNNN_toNat]; omega
@[simp] theorem fieldNNN_encNNN : fieldNNN (encNNN f nnn) = nnn := by
  apply BitVec.eq_of_toNat_eq; rw [fieldNNN_toNat, encNNN_toNat]; omega
@[simp] theorem fieldFamily_encXNN : fieldFamily (encXNN f x nn) = f := by
  apply BitVec.eq_of_toNat_eq; rw [fieldFamily_toNat, encXNN_toNat]; omega
@[simp] theorem fieldX_encXNN : fieldX (encXNN f x nn) = x := by
  apply Fin.ext; rw [fieldX_val, encXNN_toNat]; omega
@[simp] theorem fieldNN_encXNN : fieldNN (encXNN f x nn) = nn := by
  apply BitVec.eq_of_toNat_eq; rw [fieldNN_toNat, encXNN_toNat]; omega
@[simp] theorem fieldFamily_encXYN : fieldFamily (encXYN f x y n) = f := by
  apply BitVec.eq_of_toNat_eq; rw [fieldFamily_toNat, encXYN_toNat]; omega
@[simp] theorem fieldX_encXYN : fieldX (encXYN f x y n) = x := by
  apply Fin.ext; rw [fieldX_val, encXYN_toNat]; omega
@[simp] theorem fieldY_encXYN : fieldY (encXYN f x y n) = y := by
  apply Fin.ext; rw [fieldY_val, encXYN_toNat]; omega
@[simp] theorem fieldN_encXYN : fieldN (encXYN f x y n) = n := by
  apply BitVec.eq_of_toNat_eq; rw [fieldN_toNat, encXYN_toNat]; omega

end

theorem wordOfBytes_toNat (hi lo : Byte) : (wordOfBytes hi lo).toNat = hi.toNat * 256 + lo.toNat := by
  unfold wordOfBytes
  rw [append_toNat]
  omega

/-- The two bytes of a word form the word again. -/
@[simp] theorem wordOfBytes_wordBytes (w : Word) : wordOfBytes (w.extractLsb' 8 8) (w.extractLsb' 0 8) = w := by
  apply BitVec.eq_of_toNat_eq
  rw [wordOfBytes_toNat]
  simp only [BitVec.extractLsb'_toNat, Nat.shiftRight_eq_div_pow]
  omega

/-! ## The masked word of R94, as a number -/

theorem and_F000_toNat (w : Word) : (w &&& 0xF000#16).toNat = w.toNat / 4096 * 4096 := by
  have h : w &&& 0xF000#16 = (w >>> 12) <<< 12 := by
    apply BitVec.eq_of_getLsbD_eq
    intro k hk
    interval_cases k <;> simp
  rw [h]
  have := w.isLt
  simp only [BitVec.toNat_shiftLeft, BitVec.toNat_ushiftRight, Nat.shiftLeft_eq, Nat.shiftRight_eq_div_pow]
  omega

theorem and_low_toNat (w : Word) (k : Nat) (hk : k ≤ 16) : (w &&& BitVec.ofNat 16 (2 ^ k - 1)).toNat = w.toNat % 2 ^ k := by
  have h : 2 ^ k ≤ 2 ^ 16 := Nat.pow_le_pow_right (by decide) hk
  rw [BitVec.toNat_and, BitVec.toNat_ofNat, Nat.mod_eq_of_lt (by omega), Nat.and_two_pow_sub_one_eq_mod]

theorem and_F00F_toNat (w : Word) : (w &&& 0xF00F#16).toNat = w.toNat / 4096 * 4096 + w.toNat % 16 := by
  have h : w &&& 0xF00F#16 = (w &&& 0xF000#16) + (w &&& 0x000F#16) := by
    rw [BitVec.add_eq_or_of_and_eq_zero _ _ (by
      apply BitVec.eq_of_getLsbD_eq
      intro k hk
      interval_cases k <;> simp)]
    apply BitVec.eq_of_getLsbD_eq
    intro k hk
    interval_cases k <;> simp
  rw [h, BitVec.toNat_add, and_F000_toNat,
    show (0x000F#16) = BitVec.ofNat 16 (2 ^ 4 - 1) from rfl, and_low_toNat w 4 (by decide)]
  have := w.isLt
  omega

theorem and_F0FF_toNat (w : Word) : (w &&& 0xF0FF#16).toNat = w.toNat / 4096 * 4096 + w.toNat % 256 := by
  have h : w &&& 0xF0FF#16 = (w &&& 0xF000#16) + (w &&& 0x00FF#16) := by
    rw [BitVec.add_eq_or_of_and_eq_zero _ _ (by
      apply BitVec.eq_of_getLsbD_eq
      intro k hk
      interval_cases k <;> simp)]
    apply BitVec.eq_of_getLsbD_eq
    intro k hk
    interval_cases k <;> simp
  rw [h, BitVec.toNat_add, and_F000_toNat,
    show (0x00FF#16) = BitVec.ofNat 16 (2 ^ 8 - 1) from rfl, and_low_toNat w 8 (by decide)]
  have := w.isLt
  omega

end Sys2Proof
end

