-- ==== Sys2Proof/Laws/State.lean ====
section
/-! SUPPORT. What each named update of the state does to each field, and to each reader that does not read the
field it writes. -/

namespace Sys2Proof.Machine

variable (s : State)

/-! ## `setV` -/

@[simp] theorem setV_V (r : Reg) (v : Byte) : (s.setV r v).V = s.V.set r v := rfl
@[simp] theorem setV_I (r : Reg) (v : Byte) : (s.setV r v).I = s.I := rfl
@[simp] theorem setV_pc (r : Reg) (v : Byte) : (s.setV r v).pc = s.pc := rfl
@[simp] theorem setV_stack (r : Reg) (v : Byte) : (s.setV r v).stack = s.stack := rfl
@[simp] theorem setV_mem (r : Reg) (v : Byte) : (s.setV r v).mem = s.mem := rfl
@[simp] theorem setV_fb (r : Reg) (v : Byte) : (s.setV r v).fb = s.fb := rfl
@[simp] theorem setV_delta (r : Reg) (v : Byte) : (s.setV r v).delta = s.delta := rfl
@[simp] theorem setV_fullRedraw (r : Reg) (v : Byte) : (s.setV r v).fullRedraw = s.fullRedraw := rfl
@[simp] theorem setV_dtStart (r : Reg) (v : Byte) : (s.setV r v).dtStart = s.dtStart := rfl
@[simp] theorem setV_dtT0 (r : Reg) (v : Byte) : (s.setV r v).dtT0 = s.dtT0 := rfl
@[simp] theorem setV_st (r : Reg) (v : Byte) : (s.setV r v).st = s.st := rfl
@[simp] theorem setV_key (r : Reg) (v : Byte) : (s.setV r v).key = s.key := rfl
@[simp] theorem setV_fault (r : Reg) (v : Byte) : (s.setV r v).fault = s.fault := rfl
@[simp] theorem setV_stackDepth (r : Reg) (v : Byte) : (s.setV r v).stackDepth = s.stackDepth := rfl
@[simp] theorem setV_inputs (r : Reg) (v : Byte) : (s.setV r v).inputs = s.inputs := rfl
@[simp] theorem setV_inputIndex (r : Reg) (v : Byte) : (s.setV r v).inputIndex = s.inputIndex := rfl
@[simp] theorem setV_getKey (r : Reg) (v : Byte) (j : Fin 16) : (s.setV r v).getKey j = s.getKey j := rfl
@[simp] theorem setV_readByte (r : Reg) (v : Byte) (a : Nat) : (s.setV r v).readByte a = s.readByte a := rfl
@[simp] theorem setV_dataAddr (r : Reg) (v : Byte) (a : Nat) : (s.setV r v).dataAddr a = s.dataAddr a := rfl
@[simp] theorem setV_dataByte (r : Reg) (v : Byte) (a : Nat) : (s.setV r v).dataByte a = s.dataByte a := rfl
@[simp] theorem setV_nowMs (r : Reg) (v : Byte) : (s.setV r v).nowMs = s.nowMs := rfl
@[simp] theorem setV_rnd (r : Reg) (v : Byte) : (s.setV r v).rnd = s.rnd := rfl
@[simp] theorem setV_fetchWord (r : Reg) (v : Byte) : (s.setV r v).fetchWord = s.fetchWord := rfl

/-! ## `setRegs` -/

@[simp] theorem setRegs_V (w : Vector Byte 16) : (s.setRegs w).V = w := rfl
@[simp] theorem setRegs_I (w : Vector Byte 16) : (s.setRegs w).I = s.I := rfl
@[simp] theorem setRegs_pc (w : Vector Byte 16) : (s.setRegs w).pc = s.pc := rfl
@[simp] theorem setRegs_stack (w : Vector Byte 16) : (s.setRegs w).stack = s.stack := rfl
@[simp] theorem setRegs_mem (w : Vector Byte 16) : (s.setRegs w).mem = s.mem := rfl
@[simp] theorem setRegs_fb (w : Vector Byte 16) : (s.setRegs w).fb = s.fb := rfl
@[simp] theorem setRegs_delta (w : Vector Byte 16) : (s.setRegs w).delta = s.delta := rfl
@[simp] theorem setRegs_fullRedraw (w : Vector Byte 16) : (s.setRegs w).fullRedraw = s.fullRedraw := rfl
@[simp] theorem setRegs_dtStart (w : Vector Byte 16) : (s.setRegs w).dtStart = s.dtStart := rfl
@[simp] theorem setRegs_dtT0 (w : Vector Byte 16) : (s.setRegs w).dtT0 = s.dtT0 := rfl
@[simp] theorem setRegs_st (w : Vector Byte 16) : (s.setRegs w).st = s.st := rfl
@[simp] theorem setRegs_key (w : Vector Byte 16) : (s.setRegs w).key = s.key := rfl
@[simp] theorem setRegs_fault (w : Vector Byte 16) : (s.setRegs w).fault = s.fault := rfl
@[simp] theorem setRegs_stackDepth (w : Vector Byte 16) : (s.setRegs w).stackDepth = s.stackDepth := rfl
@[simp] theorem setRegs_inputs (w : Vector Byte 16) : (s.setRegs w).inputs = s.inputs := rfl
@[simp] theorem setRegs_inputIndex (w : Vector Byte 16) : (s.setRegs w).inputIndex = s.inputIndex := rfl
@[simp] theorem setRegs_getKey (w : Vector Byte 16) (j : Fin 16) : (s.setRegs w).getKey j = s.getKey j := rfl
@[simp] theorem setRegs_readByte (w : Vector Byte 16) (a : Nat) : (s.setRegs w).readByte a = s.readByte a := rfl
@[simp] theorem setRegs_dataAddr (w : Vector Byte 16) (a : Nat) : (s.setRegs w).dataAddr a = s.dataAddr a := rfl
@[simp] theorem setRegs_dataByte (w : Vector Byte 16) (a : Nat) : (s.setRegs w).dataByte a = s.dataByte a := rfl
@[simp] theorem setRegs_nowMs (w : Vector Byte 16) : (s.setRegs w).nowMs = s.nowMs := rfl
@[simp] theorem setRegs_rnd (w : Vector Byte 16) : (s.setRegs w).rnd = s.rnd := rfl
@[simp] theorem setRegs_fetchWord (w : Vector Byte 16) : (s.setRegs w).fetchWord = s.fetchWord := rfl

/-! ## `setI` -/

@[simp] theorem setI_V (v : Word) : (s.setI v).V = s.V := rfl
@[simp] theorem setI_I (v : Word) : (s.setI v).I = v := rfl
@[simp] theorem setI_pc (v : Word) : (s.setI v).pc = s.pc := rfl
@[simp] theorem setI_stack (v : Word) : (s.setI v).stack = s.stack := rfl
@[simp] theorem setI_mem (v : Word) : (s.setI v).mem = s.mem := rfl
@[simp] theorem setI_fb (v : Word) : (s.setI v).fb = s.fb := rfl
@[simp] theorem setI_delta (v : Word) : (s.setI v).delta = s.delta := rfl
@[simp] theorem setI_fullRedraw (v : Word) : (s.setI v).fullRedraw = s.fullRedraw := rfl
@[simp] theorem setI_dtStart (v : Word) : (s.setI v).dtStart = s.dtStart := rfl
@[simp] theorem setI_dtT0 (v : Word) : (s.setI v).dtT0 = s.dtT0 := rfl
@[simp] theorem setI_st (v : Word) : (s.setI v).st = s.st := rfl
@[simp] theorem setI_key (v : Word) : (s.setI v).key = s.key := rfl
@[simp] theorem setI_fault (v : Word) : (s.setI v).fault = s.fault := rfl
@[simp] theorem setI_stackDepth (v : Word) : (s.setI v).stackDepth = s.stackDepth := rfl
@[simp] theorem setI_inputs (v : Word) : (s.setI v).inputs = s.inputs := rfl
@[simp] theorem setI_inputIndex (v : Word) : (s.setI v).inputIndex = s.inputIndex := rfl
@[simp] theorem setI_getV (v : Word) (i : Reg) : (s.setI v).getV i = s.getV i := rfl
@[simp] theorem setI_getKey (v : Word) (j : Fin 16) : (s.setI v).getKey j = s.getKey j := rfl
@[simp] theorem setI_readByte (v : Word) (a : Nat) : (s.setI v).readByte a = s.readByte a := rfl
@[simp] theorem setI_nowMs (v : Word) : (s.setI v).nowMs = s.nowMs := rfl
@[simp] theorem setI_rnd (v : Word) : (s.setI v).rnd = s.rnd := rfl
@[simp] theorem setI_fetchWord (v : Word) : (s.setI v).fetchWord = s.fetchWord := rfl

/-! ## `setMem` -/

@[simp] theorem setMem_V (m : Memory) : (s.setMem m).V = s.V := rfl
@[simp] theorem setMem_I (m : Memory) : (s.setMem m).I = s.I := rfl
@[simp] theorem setMem_pc (m : Memory) : (s.setMem m).pc = s.pc := rfl
@[simp] theorem setMem_stack (m : Memory) : (s.setMem m).stack = s.stack := rfl
@[simp] theorem setMem_mem (m : Memory) : (s.setMem m).mem = m := rfl
@[simp] theorem setMem_fb (m : Memory) : (s.setMem m).fb = s.fb := rfl
@[simp] theorem setMem_delta (m : Memory) : (s.setMem m).delta = s.delta := rfl
@[simp] theorem setMem_fullRedraw (m : Memory) : (s.setMem m).fullRedraw = s.fullRedraw := rfl
@[simp] theorem setMem_dtStart (m : Memory) : (s.setMem m).dtStart = s.dtStart := rfl
@[simp] theorem setMem_dtT0 (m : Memory) : (s.setMem m).dtT0 = s.dtT0 := rfl
@[simp] theorem setMem_st (m : Memory) : (s.setMem m).st = s.st := rfl
@[simp] theorem setMem_key (m : Memory) : (s.setMem m).key = s.key := rfl
@[simp] theorem setMem_fault (m : Memory) : (s.setMem m).fault = s.fault := rfl
@[simp] theorem setMem_stackDepth (m : Memory) : (s.setMem m).stackDepth = s.stackDepth := rfl
@[simp] theorem setMem_inputs (m : Memory) : (s.setMem m).inputs = s.inputs := rfl
@[simp] theorem setMem_inputIndex (m : Memory) : (s.setMem m).inputIndex = s.inputIndex := rfl
@[simp] theorem setMem_getV (m : Memory) (i : Reg) : (s.setMem m).getV i = s.getV i := rfl
@[simp] theorem setMem_getKey (m : Memory) (j : Fin 16) : (s.setMem m).getKey j = s.getKey j := rfl
@[simp] theorem setMem_dataAddr (m : Memory) (a : Nat) : (s.setMem m).dataAddr a = s.dataAddr a := rfl
@[simp] theorem setMem_nowMs (m : Memory) : (s.setMem m).nowMs = s.nowMs := rfl
@[simp] theorem setMem_rnd (m : Memory) : (s.setMem m).rnd = s.rnd := rfl

/-! ## `setPc` -/

@[simp] theorem setPc_V (p : Word) : (s.setPc p).V = s.V := rfl
@[simp] theorem setPc_I (p : Word) : (s.setPc p).I = s.I := rfl
@[simp] theorem setPc_pc (p : Word) : (s.setPc p).pc = p := rfl
@[simp] theorem setPc_stack (p : Word) : (s.setPc p).stack = s.stack := rfl
@[simp] theorem setPc_mem (p : Word) : (s.setPc p).mem = s.mem := rfl
@[simp] theorem setPc_fb (p : Word) : (s.setPc p).fb = s.fb := rfl
@[simp] theorem setPc_delta (p : Word) : (s.setPc p).delta = s.delta := rfl
@[simp] theorem setPc_fullRedraw (p : Word) : (s.setPc p).fullRedraw = s.fullRedraw := rfl
@[simp] theorem setPc_dtStart (p : Word) : (s.setPc p).dtStart = s.dtStart := rfl
@[simp] theorem setPc_dtT0 (p : Word) : (s.setPc p).dtT0 = s.dtT0 := rfl
@[simp] theorem setPc_st (p : Word) : (s.setPc p).st = s.st := rfl
@[simp] theorem setPc_key (p : Word) : (s.setPc p).key = s.key := rfl
@[simp] theorem setPc_fault (p : Word) : (s.setPc p).fault = s.fault := rfl
@[simp] theorem setPc_stackDepth (p : Word) : (s.setPc p).stackDepth = s.stackDepth := rfl
@[simp] theorem setPc_inputs (p : Word) : (s.setPc p).inputs = s.inputs := rfl
@[simp] theorem setPc_inputIndex (p : Word) : (s.setPc p).inputIndex = s.inputIndex := rfl
@[simp] theorem setPc_getV (p : Word) (i : Reg) : (s.setPc p).getV i = s.getV i := rfl
@[simp] theorem setPc_getKey (p : Word) (j : Fin 16) : (s.setPc p).getKey j = s.getKey j := rfl
@[simp] theorem setPc_readByte (p : Word) (a : Nat) : (s.setPc p).readByte a = s.readByte a := rfl
@[simp] theorem setPc_dataAddr (p : Word) (a : Nat) : (s.setPc p).dataAddr a = s.dataAddr a := rfl
@[simp] theorem setPc_dataByte (p : Word) (a : Nat) : (s.setPc p).dataByte a = s.dataByte a := rfl
@[simp] theorem setPc_nowMs (p : Word) : (s.setPc p).nowMs = s.nowMs := rfl
@[simp] theorem setPc_rnd (p : Word) : (s.setPc p).rnd = s.rnd := rfl

/-! ## `advance` -/

@[simp] theorem advance_V (n : Nat) : (s.advance n).V = s.V := rfl
@[simp] theorem advance_I (n : Nat) : (s.advance n).I = s.I := rfl
@[simp] theorem advance_pc (n : Nat) : (s.advance n).pc = s.pc + BitVec.ofNat 16 n := rfl
@[simp] theorem advance_stack (n : Nat) : (s.advance n).stack = s.stack := rfl
@[simp] theorem advance_mem (n : Nat) : (s.advance n).mem = s.mem := rfl
@[simp] theorem advance_fb (n : Nat) : (s.advance n).fb = s.fb := rfl
@[simp] theorem advance_delta (n : Nat) : (s.advance n).delta = s.delta := rfl
@[simp] theorem advance_fullRedraw (n : Nat) : (s.advance n).fullRedraw = s.fullRedraw := rfl
@[simp] theorem advance_dtStart (n : Nat) : (s.advance n).dtStart = s.dtStart := rfl
@[simp] theorem advance_dtT0 (n : Nat) : (s.advance n).dtT0 = s.dtT0 := rfl
@[simp] theorem advance_st (n : Nat) : (s.advance n).st = s.st := rfl
@[simp] theorem advance_key (n : Nat) : (s.advance n).key = s.key := rfl
@[simp] theorem advance_fault (n : Nat) : (s.advance n).fault = s.fault := rfl
@[simp] theorem advance_stackDepth (n : Nat) : (s.advance n).stackDepth = s.stackDepth := rfl
@[simp] theorem advance_inputs (n : Nat) : (s.advance n).inputs = s.inputs := rfl
@[simp] theorem advance_inputIndex (n : Nat) : (s.advance n).inputIndex = s.inputIndex := rfl
@[simp] theorem advance_getV (n : Nat) (i : Reg) : (s.advance n).getV i = s.getV i := rfl
@[simp] theorem advance_getKey (n : Nat) (j : Fin 16) : (s.advance n).getKey j = s.getKey j := rfl
@[simp] theorem advance_readByte (n : Nat) (a : Nat) : (s.advance n).readByte a = s.readByte a := rfl
@[simp] theorem advance_dataAddr (n : Nat) (a : Nat) : (s.advance n).dataAddr a = s.dataAddr a := rfl
@[simp] theorem advance_dataByte (n : Nat) (a : Nat) : (s.advance n).dataByte a = s.dataByte a := rfl
@[simp] theorem advance_nowMs (n : Nat) : (s.advance n).nowMs = s.nowMs := rfl
@[simp] theorem advance_rnd (n : Nat) : (s.advance n).rnd = s.rnd := rfl

/-! ## `fallThrough` -/

@[simp] theorem fallThrough_V : (s.fallThrough).V = s.V := rfl
@[simp] theorem fallThrough_I : (s.fallThrough).I = s.I := rfl
@[simp] theorem fallThrough_pc : (s.fallThrough).pc = s.pc + 2#16 := rfl
@[simp] theorem fallThrough_stack : (s.fallThrough).stack = s.stack := rfl
@[simp] theorem fallThrough_mem : (s.fallThrough).mem = s.mem := rfl
@[simp] theorem fallThrough_fb : (s.fallThrough).fb = s.fb := rfl
@[simp] theorem fallThrough_delta : (s.fallThrough).delta = s.delta := rfl
@[simp] theorem fallThrough_fullRedraw : (s.fallThrough).fullRedraw = s.fullRedraw := rfl
@[simp] theorem fallThrough_dtStart : (s.fallThrough).dtStart = s.dtStart := rfl
@[simp] theorem fallThrough_dtT0 : (s.fallThrough).dtT0 = s.dtT0 := rfl
@[simp] theorem fallThrough_st : (s.fallThrough).st = s.st := rfl
@[simp] theorem fallThrough_key : (s.fallThrough).key = s.key := rfl
@[simp] theorem fallThrough_fault : (s.fallThrough).fault = s.fault := rfl
@[simp] theorem fallThrough_stackDepth : (s.fallThrough).stackDepth = s.stackDepth := rfl
@[simp] theorem fallThrough_inputs : (s.fallThrough).inputs = s.inputs := rfl
@[simp] theorem fallThrough_inputIndex : (s.fallThrough).inputIndex = s.inputIndex := rfl
@[simp] theorem fallThrough_getV (i : Reg) : (s.fallThrough).getV i = s.getV i := rfl
@[simp] theorem fallThrough_getKey (j : Fin 16) : (s.fallThrough).getKey j = s.getKey j := rfl
@[simp] theorem fallThrough_readByte (a : Nat) : (s.fallThrough).readByte a = s.readByte a := rfl
@[simp] theorem fallThrough_dataAddr (a : Nat) : (s.fallThrough).dataAddr a = s.dataAddr a := rfl
@[simp] theorem fallThrough_dataByte (a : Nat) : (s.fallThrough).dataByte a = s.dataByte a := rfl
@[simp] theorem fallThrough_nowMs : (s.fallThrough).nowMs = s.nowMs := rfl
@[simp] theorem fallThrough_rnd : (s.fallThrough).rnd = s.rnd := rfl

/-! ## `skipIf` -/

@[simp] theorem skipIf_V (c : Bool) : (s.skipIf c).V = s.V := by cases c <;> rfl
@[simp] theorem skipIf_I (c : Bool) : (s.skipIf c).I = s.I := by cases c <;> rfl
@[simp] theorem skipIf_pc (c : Bool) : (s.skipIf c).pc = if c then s.pc + 4#16 else s.pc + 2#16 := by cases c <;> rfl
@[simp] theorem skipIf_stack (c : Bool) : (s.skipIf c).stack = s.stack := by cases c <;> rfl
@[simp] theorem skipIf_mem (c : Bool) : (s.skipIf c).mem = s.mem := by cases c <;> rfl
@[simp] theorem skipIf_fb (c : Bool) : (s.skipIf c).fb = s.fb := by cases c <;> rfl
@[simp] theorem skipIf_delta (c : Bool) : (s.skipIf c).delta = s.delta := by cases c <;> rfl
@[simp] theorem skipIf_fullRedraw (c : Bool) : (s.skipIf c).fullRedraw = s.fullRedraw := by cases c <;> rfl
@[simp] theorem skipIf_dtStart (c : Bool) : (s.skipIf c).dtStart = s.dtStart := by cases c <;> rfl
@[simp] theorem skipIf_dtT0 (c : Bool) : (s.skipIf c).dtT0 = s.dtT0 := by cases c <;> rfl
@[simp] theorem skipIf_st (c : Bool) : (s.skipIf c).st = s.st := by cases c <;> rfl
@[simp] theorem skipIf_key (c : Bool) : (s.skipIf c).key = s.key := by cases c <;> rfl
@[simp] theorem skipIf_fault (c : Bool) : (s.skipIf c).fault = s.fault := by cases c <;> rfl
@[simp] theorem skipIf_stackDepth (c : Bool) : (s.skipIf c).stackDepth = s.stackDepth := by cases c <;> rfl
@[simp] theorem skipIf_inputs (c : Bool) : (s.skipIf c).inputs = s.inputs := by cases c <;> rfl
@[simp] theorem skipIf_inputIndex (c : Bool) : (s.skipIf c).inputIndex = s.inputIndex := by cases c <;> rfl
@[simp] theorem skipIf_getV (c : Bool) (i : Reg) : (s.skipIf c).getV i = s.getV i := by cases c <;> rfl
@[simp] theorem skipIf_getKey (c : Bool) (j : Fin 16) : (s.skipIf c).getKey j = s.getKey j := by cases c <;> rfl
@[simp] theorem skipIf_readByte (c : Bool) (a : Nat) : (s.skipIf c).readByte a = s.readByte a := by cases c <;> rfl
@[simp] theorem skipIf_dataAddr (c : Bool) (a : Nat) : (s.skipIf c).dataAddr a = s.dataAddr a := by cases c <;> rfl
@[simp] theorem skipIf_dataByte (c : Bool) (a : Nat) : (s.skipIf c).dataByte a = s.dataByte a := by cases c <;> rfl
@[simp] theorem skipIf_nowMs (c : Bool) : (s.skipIf c).nowMs = s.nowMs := by cases c <;> rfl
@[simp] theorem skipIf_rnd (c : Bool) : (s.skipIf c).rnd = s.rnd := by cases c <;> rfl

/-! ## `setStack` -/

@[simp] theorem setStack_V (l : List Word) : (s.setStack l).V = s.V := rfl
@[simp] theorem setStack_I (l : List Word) : (s.setStack l).I = s.I := rfl
@[simp] theorem setStack_pc (l : List Word) : (s.setStack l).pc = s.pc := rfl
@[simp] theorem setStack_stack (l : List Word) : (s.setStack l).stack = l := rfl
@[simp] theorem setStack_mem (l : List Word) : (s.setStack l).mem = s.mem := rfl
@[simp] theorem setStack_fb (l : List Word) : (s.setStack l).fb = s.fb := rfl
@[simp] theorem setStack_delta (l : List Word) : (s.setStack l).delta = s.delta := rfl
@[simp] theorem setStack_fullRedraw (l : List Word) : (s.setStack l).fullRedraw = s.fullRedraw := rfl
@[simp] theorem setStack_dtStart (l : List Word) : (s.setStack l).dtStart = s.dtStart := rfl
@[simp] theorem setStack_dtT0 (l : List Word) : (s.setStack l).dtT0 = s.dtT0 := rfl
@[simp] theorem setStack_st (l : List Word) : (s.setStack l).st = s.st := rfl
@[simp] theorem setStack_key (l : List Word) : (s.setStack l).key = s.key := rfl
@[simp] theorem setStack_fault (l : List Word) : (s.setStack l).fault = s.fault := rfl
@[simp] theorem setStack_stackDepth (l : List Word) : (s.setStack l).stackDepth = s.stackDepth := rfl
@[simp] theorem setStack_inputs (l : List Word) : (s.setStack l).inputs = s.inputs := rfl
@[simp] theorem setStack_inputIndex (l : List Word) : (s.setStack l).inputIndex = s.inputIndex := rfl
@[simp] theorem setStack_getV (l : List Word) (i : Reg) : (s.setStack l).getV i = s.getV i := rfl
@[simp] theorem setStack_getKey (l : List Word) (j : Fin 16) : (s.setStack l).getKey j = s.getKey j := rfl
@[simp] theorem setStack_readByte (l : List Word) (a : Nat) : (s.setStack l).readByte a = s.readByte a := rfl
@[simp] theorem setStack_dataAddr (l : List Word) (a : Nat) : (s.setStack l).dataAddr a = s.dataAddr a := rfl
@[simp] theorem setStack_dataByte (l : List Word) (a : Nat) : (s.setStack l).dataByte a = s.dataByte a := rfl
@[simp] theorem setStack_nowMs (l : List Word) : (s.setStack l).nowMs = s.nowMs := rfl
@[simp] theorem setStack_rnd (l : List Word) : (s.setStack l).rnd = s.rnd := rfl
@[simp] theorem setStack_fetchWord (l : List Word) : (s.setStack l).fetchWord = s.fetchWord := rfl

/-! ## `setStackDepth` -/

@[simp] theorem setStackDepth_V (d : Option Nat) : (s.setStackDepth d).V = s.V := rfl
@[simp] theorem setStackDepth_I (d : Option Nat) : (s.setStackDepth d).I = s.I := rfl
@[simp] theorem setStackDepth_pc (d : Option Nat) : (s.setStackDepth d).pc = s.pc := rfl
@[simp] theorem setStackDepth_stack (d : Option Nat) : (s.setStackDepth d).stack = s.stack := rfl
@[simp] theorem setStackDepth_mem (d : Option Nat) : (s.setStackDepth d).mem = s.mem := rfl
@[simp] theorem setStackDepth_fb (d : Option Nat) : (s.setStackDepth d).fb = s.fb := rfl
@[simp] theorem setStackDepth_delta (d : Option Nat) : (s.setStackDepth d).delta = s.delta := rfl
@[simp] theorem setStackDepth_fullRedraw (d : Option Nat) : (s.setStackDepth d).fullRedraw = s.fullRedraw := rfl
@[simp] theorem setStackDepth_dtStart (d : Option Nat) : (s.setStackDepth d).dtStart = s.dtStart := rfl
@[simp] theorem setStackDepth_dtT0 (d : Option Nat) : (s.setStackDepth d).dtT0 = s.dtT0 := rfl
@[simp] theorem setStackDepth_st (d : Option Nat) : (s.setStackDepth d).st = s.st := rfl
@[simp] theorem setStackDepth_key (d : Option Nat) : (s.setStackDepth d).key = s.key := rfl
@[simp] theorem setStackDepth_fault (d : Option Nat) : (s.setStackDepth d).fault = s.fault := rfl
@[simp] theorem setStackDepth_stackDepth (d : Option Nat) : (s.setStackDepth d).stackDepth = d := rfl
@[simp] theorem setStackDepth_inputs (d : Option Nat) : (s.setStackDepth d).inputs = s.inputs := rfl
@[simp] theorem setStackDepth_inputIndex (d : Option Nat) : (s.setStackDepth d).inputIndex = s.inputIndex := rfl
@[simp] theorem setStackDepth_getV (d : Option Nat) (i : Reg) : (s.setStackDepth d).getV i = s.getV i := rfl
@[simp] theorem setStackDepth_getKey (d : Option Nat) (j : Fin 16) : (s.setStackDepth d).getKey j = s.getKey j := rfl
@[simp] theorem setStackDepth_readByte (d : Option Nat) (a : Nat) : (s.setStackDepth d).readByte a = s.readByte a := rfl
@[simp] theorem setStackDepth_dataAddr (d : Option Nat) (a : Nat) : (s.setStackDepth d).dataAddr a = s.dataAddr a := rfl
@[simp] theorem setStackDepth_dataByte (d : Option Nat) (a : Nat) : (s.setStackDepth d).dataByte a = s.dataByte a := rfl
@[simp] theorem setStackDepth_nowMs (d : Option Nat) : (s.setStackDepth d).nowMs = s.nowMs := rfl
@[simp] theorem setStackDepth_rnd (d : Option Nat) : (s.setStackDepth d).rnd = s.rnd := rfl
@[simp] theorem setStackDepth_fetchWord (d : Option Nat) : (s.setStackDepth d).fetchWord = s.fetchWord := rfl

/-! ## `setDisplay` -/

@[simp] theorem setDisplay_V (g : Framebuffer) (q : List Delta) (c : Bool) : (s.setDisplay g q c).V = s.V := rfl
@[simp] theorem setDisplay_I (g : Framebuffer) (q : List Delta) (c : Bool) : (s.setDisplay g q c).I = s.I := rfl
@[simp] theorem setDisplay_pc (g : Framebuffer) (q : List Delta) (c : Bool) : (s.setDisplay g q c).pc = s.pc := rfl
@[simp] theorem setDisplay_stack (g : Framebuffer) (q : List Delta) (c : Bool) : (s.setDisplay g q c).stack = s.stack := rfl
@[simp] theorem setDisplay_mem (g : Framebuffer) (q : List Delta) (c : Bool) : (s.setDisplay g q c).mem = s.mem := rfl
@[simp] theorem setDisplay_fb (g : Framebuffer) (q : List Delta) (c : Bool) : (s.setDisplay g q c).fb = g := rfl
@[simp] theorem setDisplay_delta (g : Framebuffer) (q : List Delta) (c : Bool) : (s.setDisplay g q c).delta = q := rfl
@[simp] theorem setDisplay_fullRedraw (g : Framebuffer) (q : List Delta) (c : Bool) : (s.setDisplay g q c).fullRedraw = c := rfl
@[simp] theorem setDisplay_dtStart (g : Framebuffer) (q : List Delta) (c : Bool) : (s.setDisplay g q c).dtStart = s.dtStart := rfl
@[simp] theorem setDisplay_dtT0 (g : Framebuffer) (q : List Delta) (c : Bool) : (s.setDisplay g q c).dtT0 = s.dtT0 := rfl
@[simp] theorem setDisplay_st (g : Framebuffer) (q : List Delta) (c : Bool) : (s.setDisplay g q c).st = s.st := rfl
@[simp] theorem setDisplay_key (g : Framebuffer) (q : List Delta) (c : Bool) : (s.setDisplay g q c).key = s.key := rfl
@[simp] theorem setDisplay_fault (g : Framebuffer) (q : List Delta) (c : Bool) : (s.setDisplay g q c).fault = s.fault := rfl
@[simp] theorem setDisplay_stackDepth (g : Framebuffer) (q : List Delta) (c : Bool) : (s.setDisplay g q c).stackDepth = s.stackDepth := rfl
@[simp] theorem setDisplay_inputs (g : Framebuffer) (q : List Delta) (c : Bool) : (s.setDisplay g q c).inputs = s.inputs := rfl
@[simp] theorem setDisplay_inputIndex (g : Framebuffer) (q : List Delta) (c : Bool) : (s.setDisplay g q c).inputIndex = s.inputIndex := rfl
@[simp] theorem setDisplay_getV (g : Framebuffer) (q : List Delta) (c : Bool) (i : Reg) : (s.setDisplay g q c).getV i = s.getV i := rfl
@[simp] theorem setDisplay_getKey (g : Framebuffer) (q : List Delta) (c : Bool) (j : Fin 16) : (s.setDisplay g q c).getKey j = s.getKey j := rfl
@[simp] theorem setDisplay_readByte (g : Framebuffer) (q : List Delta) (c : Bool) (a : Nat) : (s.setDisplay g q c).readByte a = s.readByte a := rfl
@[simp] theorem setDisplay_dataAddr (g : Framebuffer) (q : List Delta) (c : Bool) (a : Nat) : (s.setDisplay g q c).dataAddr a = s.dataAddr a := rfl
@[simp] theorem setDisplay_dataByte (g : Framebuffer) (q : List Delta) (c : Bool) (a : Nat) : (s.setDisplay g q c).dataByte a = s.dataByte a := rfl
@[simp] theorem setDisplay_nowMs (g : Framebuffer) (q : List Delta) (c : Bool) : (s.setDisplay g q c).nowMs = s.nowMs := rfl
@[simp] theorem setDisplay_rnd (g : Framebuffer) (q : List Delta) (c : Bool) : (s.setDisplay g q c).rnd = s.rnd := rfl
@[simp] theorem setDisplay_fetchWord (g : Framebuffer) (q : List Delta) (c : Bool) : (s.setDisplay g q c).fetchWord = s.fetchWord := rfl

/-! ## `setTimer` -/

@[simp] theorem setTimer_V (v : Byte) (n : Nat) : (s.setTimer v n).V = s.V := rfl
@[simp] theorem setTimer_I (v : Byte) (n : Nat) : (s.setTimer v n).I = s.I := rfl
@[simp] theorem setTimer_pc (v : Byte) (n : Nat) : (s.setTimer v n).pc = s.pc := rfl
@[simp] theorem setTimer_stack (v : Byte) (n : Nat) : (s.setTimer v n).stack = s.stack := rfl
@[simp] theorem setTimer_mem (v : Byte) (n : Nat) : (s.setTimer v n).mem = s.mem := rfl
@[simp] theorem setTimer_fb (v : Byte) (n : Nat) : (s.setTimer v n).fb = s.fb := rfl
@[simp] theorem setTimer_delta (v : Byte) (n : Nat) : (s.setTimer v n).delta = s.delta := rfl
@[simp] theorem setTimer_fullRedraw (v : Byte) (n : Nat) : (s.setTimer v n).fullRedraw = s.fullRedraw := rfl
@[simp] theorem setTimer_dtStart (v : Byte) (n : Nat) : (s.setTimer v n).dtStart = v := rfl
@[simp] theorem setTimer_dtT0 (v : Byte) (n : Nat) : (s.setTimer v n).dtT0 = n := rfl
@[simp] theorem setTimer_st (v : Byte) (n : Nat) : (s.setTimer v n).st = s.st := rfl
@[simp] theorem setTimer_key (v : Byte) (n : Nat) : (s.setTimer v n).key = s.key := rfl
@[simp] theorem setTimer_fault (v : Byte) (n : Nat) : (s.setTimer v n).fault = s.fault := rfl
@[simp] theorem setTimer_stackDepth (v : Byte) (n : Nat) : (s.setTimer v n).stackDepth = s.stackDepth := rfl
@[simp] theorem setTimer_inputs (v : Byte) (n : Nat) : (s.setTimer v n).inputs = s.inputs := rfl
@[simp] theorem setTimer_inputIndex (v : Byte) (n : Nat) : (s.setTimer v n).inputIndex = s.inputIndex := rfl
@[simp] theorem setTimer_getV (v : Byte) (n : Nat) (i : Reg) : (s.setTimer v n).getV i = s.getV i := rfl
@[simp] theorem setTimer_getKey (v : Byte) (n : Nat) (j : Fin 16) : (s.setTimer v n).getKey j = s.getKey j := rfl
@[simp] theorem setTimer_readByte (v : Byte) (n : Nat) (a : Nat) : (s.setTimer v n).readByte a = s.readByte a := rfl
@[simp] theorem setTimer_dataAddr (v : Byte) (n : Nat) (a : Nat) : (s.setTimer v n).dataAddr a = s.dataAddr a := rfl
@[simp] theorem setTimer_dataByte (v : Byte) (n : Nat) (a : Nat) : (s.setTimer v n).dataByte a = s.dataByte a := rfl
@[simp] theorem setTimer_nowMs (v : Byte) (n : Nat) : (s.setTimer v n).nowMs = s.nowMs := rfl
@[simp] theorem setTimer_rnd (v : Byte) (n : Nat) : (s.setTimer v n).rnd = s.rnd := rfl
@[simp] theorem setTimer_fetchWord (v : Byte) (n : Nat) : (s.setTimer v n).fetchWord = s.fetchWord := rfl

/-! ## `setSt` -/

@[simp] theorem setSt_V (v : Byte) : (s.setSt v).V = s.V := rfl
@[simp] theorem setSt_I (v : Byte) : (s.setSt v).I = s.I := rfl
@[simp] theorem setSt_pc (v : Byte) : (s.setSt v).pc = s.pc := rfl
@[simp] theorem setSt_stack (v : Byte) : (s.setSt v).stack = s.stack := rfl
@[simp] theorem setSt_mem (v : Byte) : (s.setSt v).mem = s.mem := rfl
@[simp] theorem setSt_fb (v : Byte) : (s.setSt v).fb = s.fb := rfl
@[simp] theorem setSt_delta (v : Byte) : (s.setSt v).delta = s.delta := rfl
@[simp] theorem setSt_fullRedraw (v : Byte) : (s.setSt v).fullRedraw = s.fullRedraw := rfl
@[simp] theorem setSt_dtStart (v : Byte) : (s.setSt v).dtStart = s.dtStart := rfl
@[simp] theorem setSt_dtT0 (v : Byte) : (s.setSt v).dtT0 = s.dtT0 := rfl
@[simp] theorem setSt_st (v : Byte) : (s.setSt v).st = v := rfl
@[simp] theorem setSt_key (v : Byte) : (s.setSt v).key = s.key := rfl
@[simp] theorem setSt_fault (v : Byte) : (s.setSt v).fault = s.fault := rfl
@[simp] theorem setSt_stackDepth (v : Byte) : (s.setSt v).stackDepth = s.stackDepth := rfl
@[simp] theorem setSt_inputs (v : Byte) : (s.setSt v).inputs = s.inputs := rfl
@[simp] theorem setSt_inputIndex (v : Byte) : (s.setSt v).inputIndex = s.inputIndex := rfl
@[simp] theorem setSt_getV (v : Byte) (i : Reg) : (s.setSt v).getV i = s.getV i := rfl
@[simp] theorem setSt_getKey (v : Byte) (j : Fin 16) : (s.setSt v).getKey j = s.getKey j := rfl
@[simp] theorem setSt_readByte (v : Byte) (a : Nat) : (s.setSt v).readByte a = s.readByte a := rfl
@[simp] theorem setSt_dataAddr (v : Byte) (a : Nat) : (s.setSt v).dataAddr a = s.dataAddr a := rfl
@[simp] theorem setSt_dataByte (v : Byte) (a : Nat) : (s.setSt v).dataByte a = s.dataByte a := rfl
@[simp] theorem setSt_nowMs (v : Byte) : (s.setSt v).nowMs = s.nowMs := rfl
@[simp] theorem setSt_rnd (v : Byte) : (s.setSt v).rnd = s.rnd := rfl
@[simp] theorem setSt_fetchWord (v : Byte) : (s.setSt v).fetchWord = s.fetchWord := rfl

/-! ## `setKey` -/

@[simp] theorem setKey_V (k : Fin 16) (c : Bool) : (s.setKey k c).V = s.V := rfl
@[simp] theorem setKey_I (k : Fin 16) (c : Bool) : (s.setKey k c).I = s.I := rfl
@[simp] theorem setKey_pc (k : Fin 16) (c : Bool) : (s.setKey k c).pc = s.pc := rfl
@[simp] theorem setKey_stack (k : Fin 16) (c : Bool) : (s.setKey k c).stack = s.stack := rfl
@[simp] theorem setKey_mem (k : Fin 16) (c : Bool) : (s.setKey k c).mem = s.mem := rfl
@[simp] theorem setKey_fb (k : Fin 16) (c : Bool) : (s.setKey k c).fb = s.fb := rfl
@[simp] theorem setKey_delta (k : Fin 16) (c : Bool) : (s.setKey k c).delta = s.delta := rfl
@[simp] theorem setKey_fullRedraw (k : Fin 16) (c : Bool) : (s.setKey k c).fullRedraw = s.fullRedraw := rfl
@[simp] theorem setKey_dtStart (k : Fin 16) (c : Bool) : (s.setKey k c).dtStart = s.dtStart := rfl
@[simp] theorem setKey_dtT0 (k : Fin 16) (c : Bool) : (s.setKey k c).dtT0 = s.dtT0 := rfl
@[simp] theorem setKey_st (k : Fin 16) (c : Bool) : (s.setKey k c).st = s.st := rfl
@[simp] theorem setKey_key (k : Fin 16) (c : Bool) : (s.setKey k c).key = s.key.set k c := rfl
@[simp] theorem setKey_fault (k : Fin 16) (c : Bool) : (s.setKey k c).fault = s.fault := rfl
@[simp] theorem setKey_stackDepth (k : Fin 16) (c : Bool) : (s.setKey k c).stackDepth = s.stackDepth := rfl
@[simp] theorem setKey_inputs (k : Fin 16) (c : Bool) : (s.setKey k c).inputs = s.inputs := rfl
@[simp] theorem setKey_inputIndex (k : Fin 16) (c : Bool) : (s.setKey k c).inputIndex = s.inputIndex := rfl
@[simp] theorem setKey_getV (k : Fin 16) (c : Bool) (i : Reg) : (s.setKey k c).getV i = s.getV i := rfl
@[simp] theorem setKey_readByte (k : Fin 16) (c : Bool) (a : Nat) : (s.setKey k c).readByte a = s.readByte a := rfl
@[simp] theorem setKey_dataAddr (k : Fin 16) (c : Bool) (a : Nat) : (s.setKey k c).dataAddr a = s.dataAddr a := rfl
@[simp] theorem setKey_dataByte (k : Fin 16) (c : Bool) (a : Nat) : (s.setKey k c).dataByte a = s.dataByte a := rfl
@[simp] theorem setKey_nowMs (k : Fin 16) (c : Bool) : (s.setKey k c).nowMs = s.nowMs := rfl
@[simp] theorem setKey_rnd (k : Fin 16) (c : Bool) : (s.setKey k c).rnd = s.rnd := rfl
@[simp] theorem setKey_fetchWord (k : Fin 16) (c : Bool) : (s.setKey k c).fetchWord = s.fetchWord := rfl

/-! ## `nextInput` -/

@[simp] theorem nextInput_V : (s.nextInput).V = s.V := rfl
@[simp] theorem nextInput_I : (s.nextInput).I = s.I := rfl
@[simp] theorem nextInput_pc : (s.nextInput).pc = s.pc := rfl
@[simp] theorem nextInput_stack : (s.nextInput).stack = s.stack := rfl
@[simp] theorem nextInput_mem : (s.nextInput).mem = s.mem := rfl
@[simp] theorem nextInput_fb : (s.nextInput).fb = s.fb := rfl
@[simp] theorem nextInput_delta : (s.nextInput).delta = s.delta := rfl
@[simp] theorem nextInput_fullRedraw : (s.nextInput).fullRedraw = s.fullRedraw := rfl
@[simp] theorem nextInput_dtStart : (s.nextInput).dtStart = s.dtStart := rfl
@[simp] theorem nextInput_dtT0 : (s.nextInput).dtT0 = s.dtT0 := rfl
@[simp] theorem nextInput_st : (s.nextInput).st = s.st := rfl
@[simp] theorem nextInput_key : (s.nextInput).key = s.key := rfl
@[simp] theorem nextInput_fault : (s.nextInput).fault = s.fault := rfl
@[simp] theorem nextInput_stackDepth : (s.nextInput).stackDepth = s.stackDepth := rfl
@[simp] theorem nextInput_inputs : (s.nextInput).inputs = s.inputs.tail := rfl
@[simp] theorem nextInput_inputIndex : (s.nextInput).inputIndex = s.inputIndex + 1 := rfl
@[simp] theorem nextInput_getV (i : Reg) : (s.nextInput).getV i = s.getV i := rfl
@[simp] theorem nextInput_getKey (j : Fin 16) : (s.nextInput).getKey j = s.getKey j := rfl
@[simp] theorem nextInput_readByte (a : Nat) : (s.nextInput).readByte a = s.readByte a := rfl
@[simp] theorem nextInput_dataAddr (a : Nat) : (s.nextInput).dataAddr a = s.dataAddr a := rfl
@[simp] theorem nextInput_dataByte (a : Nat) : (s.nextInput).dataByte a = s.dataByte a := rfl
@[simp] theorem nextInput_fetchWord : (s.nextInput).fetchWord = s.fetchWord := rfl

/-! ## `supply` -/

@[simp] theorem supply_V (n : Nat) (v : Byte) : (s.supply n v).V = s.V := rfl
@[simp] theorem supply_I (n : Nat) (v : Byte) : (s.supply n v).I = s.I := rfl
@[simp] theorem supply_pc (n : Nat) (v : Byte) : (s.supply n v).pc = s.pc := rfl
@[simp] theorem supply_stack (n : Nat) (v : Byte) : (s.supply n v).stack = s.stack := rfl
@[simp] theorem supply_mem (n : Nat) (v : Byte) : (s.supply n v).mem = s.mem := rfl
@[simp] theorem supply_fb (n : Nat) (v : Byte) : (s.supply n v).fb = s.fb := rfl
@[simp] theorem supply_delta (n : Nat) (v : Byte) : (s.supply n v).delta = s.delta := rfl
@[simp] theorem supply_fullRedraw (n : Nat) (v : Byte) : (s.supply n v).fullRedraw = s.fullRedraw := rfl
@[simp] theorem supply_dtStart (n : Nat) (v : Byte) : (s.supply n v).dtStart = s.dtStart := rfl
@[simp] theorem supply_dtT0 (n : Nat) (v : Byte) : (s.supply n v).dtT0 = s.dtT0 := rfl
@[simp] theorem supply_st (n : Nat) (v : Byte) : (s.supply n v).st = s.st := rfl
@[simp] theorem supply_key (n : Nat) (v : Byte) : (s.supply n v).key = s.key := rfl
@[simp] theorem supply_fault (n : Nat) (v : Byte) : (s.supply n v).fault = s.fault := rfl
@[simp] theorem supply_stackDepth (n : Nat) (v : Byte) : (s.supply n v).stackDepth = s.stackDepth := rfl
@[simp] theorem supply_inputs (n : Nat) (v : Byte) : (s.supply n v).inputs = ⟨n, v⟩ :: s.inputs := rfl
@[simp] theorem supply_inputIndex (n : Nat) (v : Byte) : (s.supply n v).inputIndex = s.inputIndex := rfl
@[simp] theorem supply_getV (n : Nat) (v : Byte) (i : Reg) : (s.supply n v).getV i = s.getV i := rfl
@[simp] theorem supply_getKey (n : Nat) (v : Byte) (j : Fin 16) : (s.supply n v).getKey j = s.getKey j := rfl
@[simp] theorem supply_readByte (n : Nat) (v : Byte) (a : Nat) : (s.supply n v).readByte a = s.readByte a := rfl
@[simp] theorem supply_dataAddr (n : Nat) (v : Byte) (a : Nat) : (s.supply n v).dataAddr a = s.dataAddr a := rfl
@[simp] theorem supply_dataByte (n : Nat) (v : Byte) (a : Nat) : (s.supply n v).dataByte a = s.dataByte a := rfl
@[simp] theorem supply_fetchWord (n : Nat) (v : Byte) : (s.supply n v).fetchWord = s.fetchWord := rfl

/-! ## `takeFatal` -/

@[simp] theorem takeFatal_V (c : FatalKind) (w : Word) : (takeFatal c w s).V = s.V := rfl
@[simp] theorem takeFatal_I (c : FatalKind) (w : Word) : (takeFatal c w s).I = s.I := rfl
@[simp] theorem takeFatal_pc (c : FatalKind) (w : Word) : (takeFatal c w s).pc = s.pc := rfl
@[simp] theorem takeFatal_stack (c : FatalKind) (w : Word) : (takeFatal c w s).stack = s.stack := rfl
@[simp] theorem takeFatal_mem (c : FatalKind) (w : Word) : (takeFatal c w s).mem = s.mem := rfl
@[simp] theorem takeFatal_fb (c : FatalKind) (w : Word) : (takeFatal c w s).fb = s.fb := rfl
@[simp] theorem takeFatal_delta (c : FatalKind) (w : Word) : (takeFatal c w s).delta = s.delta := rfl
@[simp] theorem takeFatal_fullRedraw (c : FatalKind) (w : Word) : (takeFatal c w s).fullRedraw = s.fullRedraw := rfl
@[simp] theorem takeFatal_dtStart (c : FatalKind) (w : Word) : (takeFatal c w s).dtStart = s.dtStart := rfl
@[simp] theorem takeFatal_dtT0 (c : FatalKind) (w : Word) : (takeFatal c w s).dtT0 = s.dtT0 := rfl
@[simp] theorem takeFatal_st (c : FatalKind) (w : Word) : (takeFatal c w s).st = s.st := rfl
@[simp] theorem takeFatal_key (c : FatalKind) (w : Word) : (takeFatal c w s).key = s.key := rfl
@[simp] theorem takeFatal_fault (c : FatalKind) (w : Word) : (takeFatal c w s).fault = some ⟨c, w, s.pc⟩ := rfl
@[simp] theorem takeFatal_stackDepth (c : FatalKind) (w : Word) : (takeFatal c w s).stackDepth = s.stackDepth := rfl
@[simp] theorem takeFatal_inputs (c : FatalKind) (w : Word) : (takeFatal c w s).inputs = s.inputs := rfl
@[simp] theorem takeFatal_inputIndex (c : FatalKind) (w : Word) : (takeFatal c w s).inputIndex = s.inputIndex := rfl
@[simp] theorem takeFatal_getV (c : FatalKind) (w : Word) (i : Reg) : (takeFatal c w s).getV i = s.getV i := rfl
@[simp] theorem takeFatal_getKey (c : FatalKind) (w : Word) (j : Fin 16) : (takeFatal c w s).getKey j = s.getKey j := rfl
@[simp] theorem takeFatal_readByte (c : FatalKind) (w : Word) (a : Nat) : (takeFatal c w s).readByte a = s.readByte a := rfl
@[simp] theorem takeFatal_dataAddr (c : FatalKind) (w : Word) (a : Nat) : (takeFatal c w s).dataAddr a = s.dataAddr a := rfl
@[simp] theorem takeFatal_dataByte (c : FatalKind) (w : Word) (a : Nat) : (takeFatal c w s).dataByte a = s.dataByte a := rfl
@[simp] theorem takeFatal_nowMs (c : FatalKind) (w : Word) : (takeFatal c w s).nowMs = s.nowMs := rfl
@[simp] theorem takeFatal_rnd (c : FatalKind) (w : Word) : (takeFatal c w s).rnd = s.rnd := rfl
@[simp] theorem takeFatal_fetchWord (c : FatalKind) (w : Word) : (takeFatal c w s).fetchWord = s.fetchWord := rfl

/-! ## A register, a latch and the inputs read back -/

@[simp] theorem getV_setV_self (r : Reg) (v : Byte) : (s.setV r v).getV r = v := by
  simp [State.getV, State.setV]

theorem getV_setV_ne {r i : Reg} (v : Byte) (h : i ≠ r) : (s.setV r v).getV i = s.getV i := by
  have h' : r.val ≠ i.val := fun e => h (Fin.ext e.symm)
  simp [State.getV, State.setV, Vector.getElem_set_ne, h']

theorem getV_setV (r i : Reg) (v : Byte) : (s.setV r v).getV i = if i = r then v else s.getV i := by
  by_cases h : i = r
  · subst h; simp
  · simp [h, getV_setV_ne]

@[simp] theorem getV_setRegs (w : Vector Byte 16) (r : Reg) : (s.setRegs w).getV r = w[r] := rfl

@[simp] theorem getKey_setKey_self (k : Fin 16) (c : Bool) : (s.setKey k c).getKey k = c := by
  simp [State.getKey, State.setKey]

theorem getKey_setKey_ne {k j : Fin 16} (c : Bool) (h : j ≠ k) : (s.setKey k c).getKey j = s.getKey j := by
  have h' : k.val ≠ j.val := fun e => h (Fin.ext e.symm)
  simp [State.getKey, State.setKey, Vector.getElem_set_ne, h']

theorem getKey_setKey (k j : Fin 16) (c : Bool) : (s.setKey k c).getKey j = if j = k then c else s.getKey j := by
  by_cases h : j = k
  · subst h; simp
  · simp [h, getKey_setKey_ne]

@[simp] theorem nowMs_supply (n : Nat) (v : Byte) : (s.supply n v).nowMs = n := rfl
@[simp] theorem rnd_supply (n : Nat) (v : Byte) : (s.supply n v).rnd = v := rfl
@[simp] theorem nextInput_supply (n : Nat) (v : Byte) : (s.supply n v).nextInput.inputs = s.inputs := rfl

end Sys2Proof.Machine
end

