-- ==== Sys2Proof/Laws/Display.lean ====
section
/-! SUPPORT. The laws of the framebuffer and of one flip. -/

namespace Sys2Proof.Machine

theorem fbGet_fbSet (fb : Framebuffer) (px qx : Fin 64) (py qy : Fin 32) (v : Bool) :
    fbGet (fbSet fb px py v) qx qy = if qx = px ∧ qy = py then v else fbGet fb qx qy := by
  have e1 : (px.val = qx.val) = (qx = px) := propext (by rw [Fin.ext_iff]; exact eq_comm)
  have e2 : (py.val = qy.val) = (qy = py) := propext (by rw [Fin.ext_iff]; exact eq_comm)
  simp only [fbGet, fbSet, Fin.getElem_fin, Vector.getElem_set, e1]
  split
  · next h =>
    subst h
    simp only [Vector.getElem_set, e2, true_and]
  · next h => simp [h]

theorem fbGet_blankFb (px : Fin 64) (py : Fin 32) : fbGet blankFb px py = false := by
  simp [fbGet, blankFb]

/-- Two framebuffers with the same pixels are the same. -/
theorem fb_ext {f g : Framebuffer} (h : ∀ px py, fbGet f px py = fbGet g px py) : f = g := by
  apply Vector.ext
  intro i hi
  apply Vector.ext
  intro j hj
  exact h ⟨i, hi⟩ ⟨j, hj⟩

/-- A flip inside the grid: the pixel is negated and recorded, and collides if it was on. -/
theorem flipPixel_inside (px : Fin 64) (py : Fin 32) (c : Canvas) :
    flipPixel px py c =
      ⟨fbSet c.fb px py (!fbGet c.fb px py), c.delta ++ [⟨px, py, !fbGet c.fb px py⟩],
        c.collision || fbGet c.fb px py⟩ := by
  simp [flipPixel]

/-- A flip outside the grid is dropped. -/
theorem flipPixel_outside {px py : Nat} (h : ¬(px < 64 ∧ py < 32)) (c : Canvas) : flipPixel px py c = c := by
  simp [flipPixel, h]

end Sys2Proof.Machine
end

