-- ==== Sys2Proof/Laws/Memory.lean ====
section
/-! SUPPORT. The laws of MEM: the canonical form is kept by every operation; a byte written is read back and no
other byte changes. -/

namespace Sys2Proof.Machine

theorem memIndex_lt (a : Nat) : memIndex a < Config.memSize := Nat.mod_lt _ (by decide)

@[simp] theorem memIndex_memIndex (a : Nat) : memIndex (memIndex a) = memIndex a := Nat.mod_mod _ _

theorem wfFrom_cons {low a : Nat} {v : Byte} {rest : Memory} :
    Memory.wfFrom low ((a, v) :: rest) = true ↔
      (low ≤ a ∧ a < Config.memSize ∧ v ≠ Memory.blank a) ∧ Memory.wfFrom (a + 1) rest = true := by
  simp [Memory.wfFrom]

theorem wfFrom_mono {low low' : Nat} (h : low' ≤ low) {m : Memory} (hm : Memory.wfFrom low m = true) :
    Memory.wfFrom low' m = true := by
  cases m with
  | nil => rfl
  | cons c rest =>
    rw [wfFrom_cons] at hm ⊢
    exact ⟨⟨h.trans hm.1.1, hm.1.2⟩, hm.2⟩

/-- An address below every listed one reads as blank. -/
theorem lookup_below {low a : Nat} (h : a < low) {m : Memory} (hm : Memory.wfFrom low m = true) :
    m.lookup a = Memory.blank a := by
  induction m generalizing low with
  | nil => rfl
  | cons c rest ih =>
    rw [wfFrom_cons] at hm
    have hne : c.1 ≠ a := by omega
    simp only [Memory.lookup, hne, if_false]
    exact ih (low := c.1 + 1) (by omega) hm.2

theorem lookup_entry_self {a : Nat} {v : Byte} {rest : Memory} (h : Memory.wfFrom (a + 1) rest = true) :
    (Memory.entry a v rest).lookup a = v := by
  unfold Memory.entry
  split
  · next hv => rw [lookup_below (Nat.lt_succ_self a) h, hv]
  · simp [Memory.lookup]

theorem lookup_entry_ne {a b : Nat} (h : b ≠ a) (v : Byte) (rest : Memory) :
    (Memory.entry a v rest).lookup b = rest.lookup b := by
  unfold Memory.entry
  split
  · rfl
  · simp [Memory.lookup, h.symm]

theorem wfFrom_entry {low a : Nat} {v : Byte} {rest : Memory} (hl : low ≤ a) (ha : a < Config.memSize)
    (h : Memory.wfFrom (a + 1) rest = true) : Memory.wfFrom low (Memory.entry a v rest) = true := by
  unfold Memory.entry
  split
  · exact wfFrom_mono (by omega) h
  · next hv => exact wfFrom_cons.2 ⟨⟨hl, ha, hv⟩, h⟩

theorem wfFrom_insert {low a : Nat} {v : Byte} {m : Memory} (hl : low ≤ a) (ha : a < Config.memSize)
    (hm : Memory.wfFrom low m = true) : Memory.wfFrom low (m.insert a v) = true := by
  induction m generalizing low with
  | nil => exact wfFrom_entry hl ha rfl
  | cons c rest ih =>
    rw [wfFrom_cons] at hm
    simp only [Memory.insert]
    split_ifs with h1 h2
    · exact wfFrom_entry hl ha (wfFrom_cons.2 ⟨⟨by omega, hm.1.2⟩, hm.2⟩)
    · exact wfFrom_entry hl ha (h2 ▸ hm.2)
    · exact wfFrom_cons.2 ⟨hm.1, ih (by omega) hm.2⟩

theorem lookup_insert_self {low a : Nat} {v : Byte} {m : Memory} (hm : Memory.wfFrom low m = true) :
    (m.insert a v).lookup a = v := by
  induction m generalizing low with
  | nil => exact lookup_entry_self rfl
  | cons c rest ih =>
    rw [wfFrom_cons] at hm
    simp only [Memory.insert]
    split_ifs with h1 h2
    · exact lookup_entry_self (wfFrom_cons.2 ⟨⟨by omega, hm.1.2⟩, hm.2⟩)
    · exact lookup_entry_self (h2 ▸ hm.2)
    · simp only [Memory.lookup, Ne.symm h2, if_false]
      exact ih hm.2

theorem lookup_insert_ne {a b : Nat} (h : b ≠ a) (v : Byte) (m : Memory) :
    (m.insert a v).lookup b = m.lookup b := by
  induction m with
  | nil => exact lookup_entry_ne h v []
  | cons c rest ih =>
    simp only [Memory.insert]
    split_ifs with h1 h2
    · exact lookup_entry_ne h v _
    · rw [lookup_entry_ne h]
      simp [Memory.lookup, ← h2, h.symm]
    · simp only [Memory.lookup, ih]

/-- A write keeps the canonical form. -/
theorem wf_write {m : Memory} (hm : m.wf = true) (a : Nat) (v : Byte) : (m.write a v).wf = true :=
  wfFrom_insert (Nat.zero_le _) (memIndex_lt a) hm

theorem wf_writeN {m : Memory} (hm : m.wf = true) (addr n v : Nat) : (m.writeN addr n v).wf = true := by
  induction n generalizing m addr with
  | zero => exact hm
  | succ n ih => exact ih (wf_write hm _ _) _

theorem wf_load {m : Memory} (hm : m.wf = true) (addr : Nat) (bs : List Byte) : (m.load addr bs).wf = true := by
  induction bs generalizing m addr with
  | nil => exact hm
  | cons b bs ih => exact ih (wf_write hm _ _) _

theorem wf_nil : Memory.wf [] = true := rfl

/-- A byte written is read back, at every address that reduces to the same cell. -/
theorem read_write_same {m : Memory} (hm : m.wf = true) {a b : Nat} (h : memIndex b = memIndex a) (v : Byte) :
    (m.write a v).read b = v := by
  unfold Memory.read Memory.write
  rw [h]
  exact lookup_insert_self hm

/-- A write leaves every other cell alone. -/
theorem read_write_other (m : Memory) {a b : Nat} (h : memIndex b ≠ memIndex a) (v : Byte) :
    (m.write a v).read b = m.read b := lookup_insert_ne h v m

/-- Both laws in one. -/
theorem read_write {m : Memory} (hm : m.wf = true) (a b : Nat) (v : Byte) :
    (m.write a v).read b = if memIndex b = memIndex a then v else m.read b := by
  split
  · next h => exact read_write_same hm h v
  · next h => exact read_write_other m h v

/-- A cell outside the loaded range keeps its byte. -/
theorem read_load_other (m : Memory) (addr b : Nat) (bs : List Byte)
    (h : ∀ k, k < bs.length → memIndex b ≠ memIndex (addr + k)) : (m.load addr bs).read b = m.read b := by
  induction bs generalizing m addr with
  | nil => rfl
  | cons v vs ih =>
    rw [Memory.load, ih]
    · exact read_write_other m (by simpa using h 0 (by simp)) v
    · intro k hk
      have h' := h (k + 1) (by simpa using hk)
      rwa [show addr + 1 + k = addr + (k + 1) by omega]

/-- The bytes of a list that fits in memory are read back where they were loaded. -/
theorem read_load {m : Memory} (hm : m.wf = true) (addr k : Nat) (bs : List Byte)
    (hfit : addr + bs.length ≤ Config.memSize) (hk : k < bs.length) :
    (m.load addr bs).read (addr + k) = bs[k] := by
  induction bs generalizing m addr k with
  | nil => simp at hk
  | cons v vs ih =>
    simp only [List.length_cons] at hfit hk
    cases k with
    | zero =>
      rw [Memory.load, Nat.add_zero, read_load_other]
      · simpa using read_write_same hm rfl v
      · intro j hj
        simp only [memIndex, Config.memSize] at hfit ⊢
        omega
    | succ k =>
      rw [Memory.load, show addr + (k + 1) = addr + 1 + k by omega]
      simpa using ih (wf_write hm _ _) (addr + 1) k (by omega) (by omega)

/-- `MemRead(a, 2)` of R63: the byte at the lower address is the high byte. -/
theorem readN_two (m : Memory) (a : Nat) : m.readN a 2 = (m.read a).toNat * 256 + (m.read (a + 1)).toNat := by
  simp [Memory.readN]

theorem readN_congr {m m' : Memory} (h : ∀ a, m'.read a = m.read a) (a n : Nat) : m'.readN a n = m.readN a n := by
  induction n generalizing a with
  | zero => rfl
  | succ n ih => simp only [Memory.readN, h, ih]

end Sys2Proof.Machine
end

