-- ==== Sys2Proof/Laws/Ops.lean ====
section
/-! SUPPORT. One lemma for each shared operation of the machine that says all it does: the fetch, the stack test,
the register writes of the arithmetic instructions, the block load, the stores of BCD, and the host's
`withFetchWord`. -/

namespace Sys2Proof.Machine

/-! ## Fetch -/

theorem fetchWord_toNat (s : State) :
    s.fetchWord.toNat = (s.readByte s.pc.toNat).toNat * 256 + (s.readByte (s.pc.toNat + 1)).toNat := by
  have h1 := (s.readByte s.pc.toNat).isLt
  have h2 := (s.readByte (s.pc.toNat + 1)).isLt
  simp only [State.fetchWord, readN_two, BitVec.toNat_ofNat, State.readByte] at *
  omega

/-- The fetch is the byte at `pc` and the byte after it, high byte first. -/
theorem fetchWord_eq (s : State) :
    s.fetchWord = wordOfBytes (s.readByte s.pc.toNat) (s.readByte (s.pc.toNat + 1)) :=
  BitVec.eq_of_toNat_eq (by rw [fetchWord_toNat, wordOfBytes_toNat])

/-- Two states with the same `pc` and the same bytes fetch the same word. -/
theorem fetchWord_congr {s t : State} (hpc : t.pc = s.pc) (hm : ∀ a, t.readByte a = s.readByte a) :
    t.fetchWord = s.fetchWord := by
  rw [fetchWord_eq, fetchWord_eq, hpc, hm, hm]

/-- After `withFetchWord` the next fetch reads the word, and the machine is not latched. -/
theorem fetchWord_withFetchWord (s : State) (hm : s.mem.wf = true) (nbits w : Nat) :
    (s.withFetchWord nbits w).fetchWord = BitVec.ofNat 16 (w % 2 ^ nbits) ∧ (s.withFetchWord nbits w).fault = none := by
  refine ⟨?_, rfl⟩
  apply BitVec.eq_of_toNat_eq
  rw [fetchWord_toNat]
  have hne : memIndex s.pc.toNat ≠ memIndex (s.pc.toNat + 1) := by
    simp only [memIndex, Config.memSize]
    omega
  set v := w % 2 ^ nbits % 65536 with hv
  have e1 : (s.withFetchWord nbits w).readByte s.pc.toNat = BitVec.ofNat 8 (v / 256 ^ 1) := by
    show ((s.mem.write _ _).write _ _).read _ = _
    rw [read_write_other _ hne, read_write_same hm rfl]
  have e2 : (s.withFetchWord nbits w).readByte (s.pc.toNat + 1) = BitVec.ofNat 8 (v / 256 ^ 0) := by
    show ((s.mem.write _ _).write _ _).read _ = _
    rw [read_write_same (wf_write hm _ _) rfl]
  show ((s.withFetchWord nbits w).readByte s.pc.toNat).toNat * 256 +
    ((s.withFetchWord nbits w).readByte (s.pc.toNat + 1)).toNat = _
  rw [e1, e2]
  simp only [BitVec.toNat_ofNat]
  omega

/-- The step is the engine's part with the step's inputs used up. -/
theorem step_next {s t : State} (h : step s = .next t) : ∃ u, engineStep s = .next u ∧ t = u.nextInput := by
  unfold step at h
  split at h
  · next u hu => exact ⟨u, hu, by injection h with h; exact h.symm⟩
  · cases h
  · cases h

/-! ## Stack -/

/-- The stack is not full exactly when STACK_DEPTH, if there is one, exceeds the number of entries. -/
theorem stackFull_eq_false (s : State) :
    s.stackFull = false ↔ ∀ d, s.stackDepth = some d → s.stack.length < d := by
  unfold State.stackFull
  split
  · next d h => simp [h]
  · next h => simp [h]

theorem stackFull_eq_true (s : State) :
    s.stackFull = true ↔ ∃ d, s.stackDepth = some d ∧ d ≤ s.stack.length := by
  rw [← Bool.not_eq_false, stackFull_eq_false]
  push Not
  rfl

/-- What RET can do: underflow on an empty stack, else pop. -/
theorem execRet_cases (s : State) :
    (s.stack = [] ∧ execRet s = .next (takeFatal .stackUnderflow 0x00EE#16 s)) ∨
    (∃ l r, s.stack = l ++ [r] ∧ execRet s = .next ((s.setStack l).setPc (r + 2#16))) := by
  rcases List.eq_nil_or_concat s.stack with h | ⟨l, r, h⟩
  · exact .inl ⟨h, by simp [execRet, h, encode]⟩
  · exact .inr ⟨l, r, by simpa using h, by simp [execRet, h]⟩

/-- What CALL can do: overflow on a full stack, else push and jump. -/
theorem execCall_cases (nnn : Addr) (s : State) :
    ((∃ d, s.stackDepth = some d ∧ d ≤ s.stack.length) ∧
      execCall nnn s = .next (takeFatal .stackOverflow (encode (.call nnn)) s)) ∨
    ((∀ d, s.stackDepth = some d → s.stack.length < d) ∧
      execCall nnn s = .next ((s.setStack (s.stack ++ [s.pc])).setPc (zextAddr nnn))) := by
  cases h : s.stackFull
  · exact .inr ⟨(stackFull_eq_false s).1 h, by simp [execCall, h, pushed]⟩
  · exact .inl ⟨(stackFull_eq_true s).1 h, by simp [execCall, h]⟩

/-! ## Register writes -/

theorem getV_writeReg (s : State) (x r : Reg) (v : Byte) :
    (s.writeReg x v).getV r = if r = x then v else s.getV r := by
  simp [State.writeReg, getV_setV]

/-- The flag is written last, so it wins when VF is the destination. -/
theorem getV_writeRegFlag (s : State) (x r : Reg) (v flag : Byte) :
    (s.writeRegFlag x v flag).getV r = if r = VF then flag else if r = x then v else s.getV r := by
  simp [State.writeRegFlag, getV_setV]

theorem addByte_toNat (a b : Byte) : (addByte a b).toNat = (a.toNat + b.toNat) % 256 := by
  simp [addByte]

theorem subByte_toNat (a b : Byte) :
    (subByte a b).toNat = if b.toNat ≤ a.toNat then a.toNat - b.toNat else a.toNat + 256 - b.toNat := by
  have ha := a.isLt
  have hb := b.isLt
  simp only [subByte, BitVec.toNat_ofInt]
  split <;> omega

theorem flagByte_toNat (c : Bool) : (flagByte c).toNat = if c then 1 else 0 := by cases c <;> rfl

theorem lowNibble_val (v : Byte) : (lowNibble v).val = v.toNat % 16 := by
  show (v.extractLsb' 0 4).toNat = _
  simp [BitVec.extractLsb'_toNat]

theorem zextAddr_toNat (nnn : Addr) : (zextAddr nnn).toNat = nnn.toNat := by
  have h := nnn.isLt
  simp only [zextAddr, BitVec.zeroExtend, BitVec.toNat_setWidth]
  omega

theorem addIndex_toNat (i : Word) (a : Byte) : (addIndex i a).toNat = (i.toNat + a.toNat) % 4096 := by
  simp only [addIndex, BitVec.toNat_ofNat]
  omega

theorem glyphAddr_toNat (d : Fin 16) : (glyphAddr d).toNat = 0x50 + 5 * d.val := by
  have h := d.isLt
  simp only [glyphAddr, Config.fontStart, Config.glyphSize, BitVec.toNat_ofNat]
  omega

/-! ## Block load and BCD -/

/-- The block load replaces the first `n` registers and leaves the others. -/
theorem loadRegs_getElem (s : State) (n k : Nat) (hk : k < 16) :
    (loadRegs s n)[k] = if k < n then s.dataByte k else s.V[k] := by
  induction n with
  | zero => simp [loadRegs]
  | succ n ih =>
    simp only [loadRegs, Vector.getElem_setIfInBounds, ih]
    by_cases h : n = k
    · simp [h]
    · have h' : (k < n + 1) = (k < n) := by simp; omega
      simp [h, h']

/-- What each byte of memory is after the three stores of BCD. -/
theorem read_bcdMem (s : State) (hm : s.mem.wf = true) (a : Byte) (b : Nat) :
    (bcdMem s a).read b =
      if memIndex b = memIndex (s.dataAddr 2) then bcdDigit a 2
      else if memIndex b = memIndex (s.dataAddr 1) then bcdDigit a 1
      else if memIndex b = memIndex (s.dataAddr 0) then bcdDigit a 0
      else s.mem.read b := by
  unfold bcdMem
  rw [read_write (wf_write (wf_write hm _ _) _ _), read_write (wf_write hm _ _), read_write hm]

theorem wf_bcdMem (s : State) (hm : s.mem.wf = true) (a : Byte) : (bcdMem s a).wf = true :=
  wf_write (wf_write (wf_write hm _ _) _ _) _ _

end Sys2Proof.Machine
end

