-- ==== Sys2Proof/Laws/PerInstr.lean ====
section
/-! SUPPORT. The family `EncodesInRow`: the word of every instruction lies in the row of its mnemonic in the opcode
table (30_encoding.md R97). -/

namespace Sys2Proof.Laws

/-- The row of the instruction's mnemonic is in the table and selects the instruction's word. -/
def EncodesInRow.Statement (i : Instr) : Prop :=
  ∃ row ∈ opTable, row.mnemonic = i.mnemonic ∧ row.selects (encode i) = true

theorem selects_NNN (m : Mnemonic) (f : Nibble) (nnn : Addr) (v : Word) (hv : v.toNat = f.toNat * 4096) :
    (OpRow.mk m 0xF000#16 v).selects (encNNN f nnn) = true := by
  rw [OpRow.selects, decide_eq_true_eq]
  apply BitVec.eq_of_toNat_eq
  show (encNNN f nnn &&& 0xF000#16).toNat = v.toNat
  rw [and_F000_toNat, encNNN_toNat, hv]
  omega

theorem selects_XNN (m : Mnemonic) (f : Nibble) (x : Reg) (nn : Byte) (v : Word) (hv : v.toNat = f.toNat * 4096) :
    (OpRow.mk m 0xF000#16 v).selects (encXNN f x nn) = true := by
  rw [OpRow.selects, decide_eq_true_eq]
  apply BitVec.eq_of_toNat_eq
  show (encXNN f x nn &&& 0xF000#16).toNat = v.toNat
  rw [and_F000_toNat, encXNN_toNat, hv]
  omega

theorem selects_XYN (m : Mnemonic) (f n : Nibble) (x y : Reg) (v : Word) (hv : v.toNat = f.toNat * 4096) :
    (OpRow.mk m 0xF000#16 v).selects (encXYN f x y n) = true := by
  rw [OpRow.selects, decide_eq_true_eq]
  apply BitVec.eq_of_toNat_eq
  show (encXYN f x y n &&& 0xF000#16).toNat = v.toNat
  rw [and_F000_toNat, encXYN_toNat, hv]
  omega

theorem selects_XYF (m : Mnemonic) (f n : Nibble) (x y : Reg) (v : Word)
    (hv : v.toNat = f.toNat * 4096 + n.toNat) : (OpRow.mk m 0xF00F#16 v).selects (encXYN f x y n) = true := by
  rw [OpRow.selects, decide_eq_true_eq]
  apply BitVec.eq_of_toNat_eq
  show (encXYN f x y n &&& 0xF00F#16).toNat = v.toNat
  rw [and_F00F_toNat, encXYN_toNat, hv]
  omega

theorem selects_XFF (m : Mnemonic) (f : Nibble) (x : Reg) (nn : Byte) (v : Word)
    (hv : v.toNat = f.toNat * 4096 + nn.toNat) : (OpRow.mk m 0xF0FF#16 v).selects (encXNN f x nn) = true := by
  rw [OpRow.selects, decide_eq_true_eq]
  apply BitVec.eq_of_toNat_eq
  show (encXNN f x nn &&& 0xF0FF#16).toNat = v.toNat
  rw [and_F0FF_toNat, encXNN_toNat, hv]
  omega

/-! ## One lemma per instruction -/

theorem EncodesInRow.cls : EncodesInRow.Statement .cls :=
  ⟨⟨.CLS, 0xFFFF#16, 0x00E0#16⟩, by decide, rfl, by decide⟩

theorem EncodesInRow.ret : EncodesInRow.Statement .ret :=
  ⟨⟨.RET, 0xFFFF#16, 0x00EE#16⟩, by decide, rfl, by decide⟩

theorem EncodesInRow.jp (nnn : Addr) : EncodesInRow.Statement (.jp nnn) :=
  ⟨⟨.JP, 0xF000#16, 0x1000#16⟩, by decide, rfl, selects_NNN _ _ _ _ rfl⟩

theorem EncodesInRow.call (nnn : Addr) : EncodesInRow.Statement (.call nnn) :=
  ⟨⟨.CALL, 0xF000#16, 0x2000#16⟩, by decide, rfl, selects_NNN _ _ _ _ rfl⟩

theorem EncodesInRow.sei (x : Reg) (nn : Byte) : EncodesInRow.Statement (.sei x nn) :=
  ⟨⟨.SEI, 0xF000#16, 0x3000#16⟩, by decide, rfl, selects_XNN _ _ _ _ _ rfl⟩

theorem EncodesInRow.snei (x : Reg) (nn : Byte) : EncodesInRow.Statement (.snei x nn) :=
  ⟨⟨.SNEI, 0xF000#16, 0x4000#16⟩, by decide, rfl, selects_XNN _ _ _ _ _ rfl⟩

theorem EncodesInRow.ldi (x : Reg) (nn : Byte) : EncodesInRow.Statement (.ldi x nn) :=
  ⟨⟨.LDI, 0xF000#16, 0x6000#16⟩, by decide, rfl, selects_XNN _ _ _ _ _ rfl⟩

theorem EncodesInRow.addi (x : Reg) (nn : Byte) : EncodesInRow.Statement (.addi x nn) :=
  ⟨⟨.ADDI, 0xF000#16, 0x7000#16⟩, by decide, rfl, selects_XNN _ _ _ _ _ rfl⟩

theorem EncodesInRow.mov (x y : Reg) : EncodesInRow.Statement (.mov x y) :=
  ⟨⟨.MOV, 0xF00F#16, 0x8000#16⟩, by decide, rfl, selects_XYF _ _ _ _ _ _ rfl⟩

theorem EncodesInRow.and (x y : Reg) : EncodesInRow.Statement (.and x y) :=
  ⟨⟨.AND, 0xF00F#16, 0x8002#16⟩, by decide, rfl, selects_XYF _ _ _ _ _ _ rfl⟩

theorem EncodesInRow.add (x y : Reg) : EncodesInRow.Statement (.add x y) :=
  ⟨⟨.ADD, 0xF00F#16, 0x8004#16⟩, by decide, rfl, selects_XYF _ _ _ _ _ _ rfl⟩

theorem EncodesInRow.sub (x y : Reg) : EncodesInRow.Statement (.sub x y) :=
  ⟨⟨.SUB, 0xF00F#16, 0x8005#16⟩, by decide, rfl, selects_XYF _ _ _ _ _ _ rfl⟩

theorem EncodesInRow.shr (x y : Reg) : EncodesInRow.Statement (.shr x y) :=
  ⟨⟨.SHR, 0xF00F#16, 0x8006#16⟩, by decide, rfl, selects_XYF _ _ _ _ _ _ rfl⟩

theorem EncodesInRow.sne (x y : Reg) : EncodesInRow.Statement (.sne x y) :=
  ⟨⟨.SNE, 0xF00F#16, 0x9000#16⟩, by decide, rfl, selects_XYF _ _ _ _ _ _ rfl⟩

theorem EncodesInRow.ldix (nnn : Addr) : EncodesInRow.Statement (.ldix nnn) :=
  ⟨⟨.LDIX, 0xF000#16, 0xA000#16⟩, by decide, rfl, selects_NNN _ _ _ _ rfl⟩

theorem EncodesInRow.rnd (x : Reg) (nn : Byte) : EncodesInRow.Statement (.rnd x nn) :=
  ⟨⟨.RND, 0xF000#16, 0xC000#16⟩, by decide, rfl, selects_XNN _ _ _ _ _ rfl⟩

theorem EncodesInRow.drw (x y : Reg) (n : Nibble) : EncodesInRow.Statement (.drw x y n) :=
  ⟨⟨.DRW, 0xF000#16, 0xD000#16⟩, by decide, rfl, selects_XYN _ _ _ _ _ _ rfl⟩

theorem EncodesInRow.skp (x : Reg) : EncodesInRow.Statement (.skp x) :=
  ⟨⟨.SKP, 0xF0FF#16, 0xE09E#16⟩, by decide, rfl, selects_XFF _ _ _ _ _ rfl⟩

theorem EncodesInRow.sknp (x : Reg) : EncodesInRow.Statement (.sknp x) :=
  ⟨⟨.SKNP, 0xF0FF#16, 0xE0A1#16⟩, by decide, rfl, selects_XFF _ _ _ _ _ rfl⟩

theorem EncodesInRow.gdt (x : Reg) : EncodesInRow.Statement (.gdt x) :=
  ⟨⟨.GDT, 0xF0FF#16, 0xF007#16⟩, by decide, rfl, selects_XFF _ _ _ _ _ rfl⟩

theorem EncodesInRow.sdt (x : Reg) : EncodesInRow.Statement (.sdt x) :=
  ⟨⟨.SDT, 0xF0FF#16, 0xF015#16⟩, by decide, rfl, selects_XFF _ _ _ _ _ rfl⟩

theorem EncodesInRow.sst (x : Reg) : EncodesInRow.Statement (.sst x) :=
  ⟨⟨.SST, 0xF0FF#16, 0xF018#16⟩, by decide, rfl, selects_XFF _ _ _ _ _ rfl⟩

theorem EncodesInRow.addix (x : Reg) : EncodesInRow.Statement (.addix x) :=
  ⟨⟨.ADDIX, 0xF0FF#16, 0xF01E#16⟩, by decide, rfl, selects_XFF _ _ _ _ _ rfl⟩

theorem EncodesInRow.font (x : Reg) : EncodesInRow.Statement (.font x) :=
  ⟨⟨.FONT, 0xF0FF#16, 0xF029#16⟩, by decide, rfl, selects_XFF _ _ _ _ _ rfl⟩

theorem EncodesInRow.bcd (x : Reg) : EncodesInRow.Statement (.bcd x) :=
  ⟨⟨.BCD, 0xF0FF#16, 0xF033#16⟩, by decide, rfl, selects_XFF _ _ _ _ _ rfl⟩

theorem EncodesInRow.ldm (x : Reg) : EncodesInRow.Statement (.ldm x) :=
  ⟨⟨.LDM, 0xF0FF#16, 0xF065#16⟩, by decide, rfl, selects_XFF _ _ _ _ _ rfl⟩

end Sys2Proof.Laws
end

