-- ==== Sys2Proof/Tests/Slice0.lean ====
section
/-! SUPPORT. Tests: the words and the expected values are those of spec/95_test_vectors.md (the vector's id stands in
each comment), or are worked out by hand from the rule named. After them the witnesses: for every obligation with
hypotheses, a concrete state and operands that meet them. -/

namespace Sys2Proof.Tests

open Sys2Proof Sys2Proof.Machine

/-! ## Helpers -/

/-- The reset state with a program counter and a word there. -/
def baseAt (pc : Word) (w : Nat) : State := (State.reset.setPc pc).withFetchWord 16 w

/-- The reset state with a word at 0x0200. -/
def base (w : Nat) : State := baseAt 0x0200 w

/-- A state with some registers changed. -/
def withRegs (l : List (Reg × Byte)) (s : State) : State := l.foldl (fun s p => s.setV p.1 p.2) s

/-- A state with some bytes of memory changed. -/
def withMem (l : List (Nat × Byte)) (s : State) : State := { s with mem := l.foldl (fun m p => m.write p.1 p.2) s.mem }

/-- A state with some pixels on. -/
def withOn (l : List (Fin 64 × Fin 32)) (s : State) : State :=
  { s with fb := l.foldl (fun fb p => fbSet fb p.1 p.2 true) s.fb }

/-- What a reader reads in the state after one step. -/
def after {α : Type} (f : State → α) (s : State) : Option α :=
  match step s with
  | .next t => some (f t)
  | .fault _ => none
  | .refused _ => none

/-- The list of the first `n` registers. -/
def regs (n : Nat) (s : State) : List Byte := s.V.toList.take n

/-! ## WellFormed: one ill-formed line for each check, which the check refuses -/

theorem test_illformed_format_fix_operand : AsmLine.wellFormed ⟨.CLS, [.num 0]⟩ = false ∧ assemble ⟨.CLS, [.num 0]⟩ = none := by decide
theorem test_illformed_format_nnn_missing : AsmLine.wellFormed ⟨.JP, []⟩ = false ∧ assemble ⟨.JP, []⟩ = none := by decide
theorem test_illformed_format_nnn_kind : AsmLine.wellFormed ⟨.JP, [.reg 1]⟩ = false ∧ assemble ⟨.JP, [.reg 1]⟩ = none := by decide
theorem test_illformed_range_nnn : AsmLine.wellFormed ⟨.CALL, [.num 4096]⟩ = false ∧ assemble ⟨.CALL, [.num 4096]⟩ = none := by decide
theorem test_illformed_format_xnn_missing : AsmLine.wellFormed ⟨.SEI, [.reg 1]⟩ = false ∧ assemble ⟨.SEI, [.reg 1]⟩ = none := by decide
theorem test_illformed_format_xnn_kind : AsmLine.wellFormed ⟨.LDI, [.num 1, .num 2]⟩ = false ∧ assemble ⟨.LDI, [.num 1, .num 2]⟩ = none := by decide
theorem test_illformed_range_xnn_x : AsmLine.wellFormed ⟨.LDI, [.reg 16, .num 0]⟩ = false ∧ assemble ⟨.LDI, [.reg 16, .num 0]⟩ = none := by decide
theorem test_illformed_range_xnn_nn : AsmLine.wellFormed ⟨.ADDI, [.reg 0, .num 256]⟩ = false ∧ assemble ⟨.ADDI, [.reg 0, .num 256]⟩ = none := by decide
theorem test_illformed_format_xyf_kind : AsmLine.wellFormed ⟨.ADD, [.reg 0, .num 1]⟩ = false ∧ assemble ⟨.ADD, [.reg 0, .num 1]⟩ = none := by decide
theorem test_illformed_range_xyf_x : AsmLine.wellFormed ⟨.MOV, [.reg 16, .reg 0]⟩ = false ∧ assemble ⟨.MOV, [.reg 16, .reg 0]⟩ = none := by decide
theorem test_illformed_range_xyf_y : AsmLine.wellFormed ⟨.SUB, [.reg 0, .reg 16]⟩ = false ∧ assemble ⟨.SUB, [.reg 0, .reg 16]⟩ = none := by decide
theorem test_illformed_format_xyn_missing : AsmLine.wellFormed ⟨.DRW, [.reg 0, .reg 0]⟩ = false ∧ assemble ⟨.DRW, [.reg 0, .reg 0]⟩ = none := by decide
theorem test_illformed_range_xyn_x : AsmLine.wellFormed ⟨.DRW, [.reg 16, .reg 0, .num 0]⟩ = false ∧ assemble ⟨.DRW, [.reg 16, .reg 0, .num 0]⟩ = none := by decide
theorem test_illformed_range_xyn_y : AsmLine.wellFormed ⟨.DRW, [.reg 0, .reg 16, .num 0]⟩ = false ∧ assemble ⟨.DRW, [.reg 0, .reg 16, .num 0]⟩ = none := by decide
theorem test_illformed_range_xyn_n : AsmLine.wellFormed ⟨.DRW, [.reg 0, .reg 0, .num 16]⟩ = false ∧ assemble ⟨.DRW, [.reg 0, .reg 0, .num 16]⟩ = none := by decide
theorem test_illformed_format_xff_extra : AsmLine.wellFormed ⟨.SKP, [.reg 0, .reg 0]⟩ = false ∧ assemble ⟨.SKP, [.reg 0, .reg 0]⟩ = none := by decide
theorem test_illformed_range_xff_x : AsmLine.wellFormed ⟨.LDM, [.reg 16]⟩ = false ∧ assemble ⟨.LDM, [.reg 16]⟩ = none := by decide

theorem test_wellformed_bounds : AsmLine.wellFormed ⟨.DRW, [.reg 15, .reg 15, .num 15]⟩ = true ∧
    AsmLine.wellFormed ⟨.CALL, [.num 4095]⟩ = true ∧ AsmLine.wellFormed ⟨.ADDI, [.reg 15, .num 255]⟩ = true := by decide

/-! ## Decoding: every instruction from a word of 95_test_vectors.md 2.1, and the words next to them that are Illegal -/

theorem test_decode_cls : decodeTableWord 16 0x00E0 = some .cls ∧
    encode .cls = 0x00E0#16 := by decide
theorem test_decode_ret : decodeTableWord 16 0x00EE = some .ret ∧
    encode .ret = 0x00EE#16 := by decide
theorem test_decode_jp : decodeTableWord 16 0x10E0 = some (.jp 0x0E0) ∧ decodeTableWord 16 0x1FFF = some (.jp 0xFFF) ∧
    encode (.jp 0x0E0) = 0x10E0#16 ∧ encode (.jp 0xFFF) = 0x1FFF#16 := by decide
theorem test_decode_call : decodeTableWord 16 0x2ABC = some (.call 0xABC) ∧
    encode (.call 0xABC) = 0x2ABC#16 := by decide
theorem test_decode_sei : decodeTableWord 16 0x3A7F = some (.sei 0xA 0x7F) ∧
    encode (.sei 0xA 0x7F) = 0x3A7F#16 := by decide
theorem test_decode_snei : decodeTableWord 16 0x4F00 = some (.snei 0xF 0x00) ∧
    encode (.snei 0xF 0x00) = 0x4F00#16 := by decide
theorem test_decode_ldi : decodeTableWord 16 0x6C42 = some (.ldi 0xC 0x42) ∧
    encode (.ldi 0xC 0x42) = 0x6C42#16 := by decide
theorem test_decode_addi : decodeTableWord 16 0x7EFF = some (.addi 0xE 0xFF) ∧
    encode (.addi 0xE 0xFF) = 0x7EFF#16 := by decide
theorem test_decode_mov : decodeTableWord 16 0x8AB0 = some (.mov 0xA 0xB) ∧
    encode (.mov 0xA 0xB) = 0x8AB0#16 := by decide
theorem test_decode_and : decodeTableWord 16 0x8AB2 = some (.and 0xA 0xB) ∧
    encode (.and 0xA 0xB) = 0x8AB2#16 := by decide
theorem test_decode_add : decodeTableWord 16 0x8AB4 = some (.add 0xA 0xB) ∧
    encode (.add 0xA 0xB) = 0x8AB4#16 := by decide
theorem test_decode_sub : decodeTableWord 16 0x8AB5 = some (.sub 0xA 0xB) ∧
    encode (.sub 0xA 0xB) = 0x8AB5#16 := by decide
theorem test_decode_shr : decodeTableWord 16 0x8AB6 = some (.shr 0xA 0xB) ∧
    encode (.shr 0xA 0xB) = 0x8AB6#16 := by decide
theorem test_decode_sne : decodeTableWord 16 0x9AB0 = some (.sne 0xA 0xB) ∧
    encode (.sne 0xA 0xB) = 0x9AB0#16 := by decide
theorem test_decode_ldix : decodeTableWord 16 0xA123 = some (.ldix 0x123) ∧
    encode (.ldix 0x123) = 0xA123#16 := by decide
theorem test_decode_rnd : decodeTableWord 16 0xC5F0 = some (.rnd 5 0xF0) ∧
    encode (.rnd 5 0xF0) = 0xC5F0#16 := by decide
theorem test_decode_drw : decodeTableWord 16 0xD125 = some (.drw 1 2 5) ∧ decodeTableWord 16 0xD000 = some (.drw 0 0 0) ∧
    encode (.drw 1 2 5) = 0xD125#16 ∧ encode (.drw 0 0 0) = 0xD000#16 := by decide
theorem test_decode_skp : decodeTableWord 16 0xE19E = some (.skp 1) ∧
    encode (.skp 1) = 0xE19E#16 := by decide
theorem test_decode_sknp : decodeTableWord 16 0xE1A1 = some (.sknp 1) ∧
    encode (.sknp 1) = 0xE1A1#16 := by decide
theorem test_decode_gdt : decodeTableWord 16 0xF107 = some (.gdt 1) ∧
    encode (.gdt 1) = 0xF107#16 := by decide
theorem test_decode_sdt : decodeTableWord 16 0xF115 = some (.sdt 1) ∧
    encode (.sdt 1) = 0xF115#16 := by decide
theorem test_decode_sst : decodeTableWord 16 0xF118 = some (.sst 1) ∧
    encode (.sst 1) = 0xF118#16 := by decide
theorem test_decode_addix : decodeTableWord 16 0xF11E = some (.addix 1) ∧
    encode (.addix 1) = 0xF11E#16 := by decide
theorem test_decode_font : decodeTableWord 16 0xF129 = some (.font 1) ∧
    encode (.font 1) = 0xF129#16 := by decide
theorem test_decode_bcd : decodeTableWord 16 0xF133 = some (.bcd 1) ∧
    encode (.bcd 1) = 0xF133#16 := by decide
theorem test_decode_ldm : decodeTableWord 16 0xF165 = some (.ldm 1) ∧
    encode (.ldm 1) = 0xF165#16 := by decide

/-- E3 to E7, E13, E17, E19, E23, E24, E26, E28, E34, E35, E37, E43, E45, E46. -/
theorem test_decode_illegal : [0x0000, 0x00E1, 0x00EF, 0x00FE, 0x0123, 0x5120, 0x8AB1, 0x8AB3, 0x8AB7, 0x8ABE, 0x9AB1, 0xB123, 0xE19F, 0xE100, 0xF10A, 0xF155, 0xF175, 0xFFFF].all (fun w => decodeTableWord 16 w == none) = true := by decide

/-- Field extraction of R92 on 0xD7A3 (95_test_vectors.md 2.1). -/
theorem test_fields : fieldFamily 0xD7A3 = 0xD ∧ fieldX 0xD7A3 = 7 ∧ fieldY 0xD7A3 = 0xA ∧ fieldN 0xD7A3 = 3 ∧
    fieldNN 0xD7A3 = 0xA3 ∧ fieldNNN 0xD7A3 = 0x7A3 := by decide

/-- One byte is no instruction word, and bytes after the word are left (R90). -/
theorem test_decode_bytes : decodeBytes [0x12] = .error .truncated ∧
    decodeBytes [0x12, 0x34, 0x56] = .ok (.jp 0x234, [0x56]) := by decide

/-- Fetch byte order (R65): 0x12 at 0x200 and 0x34 at 0x201 are JP 0x234. -/
theorem test_fetch_order : after (·.pc) (withMem [(0x200, 0x12), (0x201, 0x34)] State.reset) = some 0x0234 := by decide

/-! ## One step: at most two tests per instruction -/

/-- G1: prior pixels off, queue emptied, full redraw. -/
theorem test_cls_clears : after (fun t => (fbGet t.fb 0 0, fbGet t.fb 63 31, t.delta, t.fullRedraw, t.pc))
    (withOn [(0, 0), (63, 31)] { base 0x00E0 with delta := [⟨0, 0, true⟩] }) = some (false, false, [], true, 0x0202) := by decide

/-- C5b. -/
theorem test_ret_pops : after (fun t => (t.pc, t.stack)) ((baseAt 0x0300 0x00EE).setStack [0x0204, 0x020A]) = some (0x020C, [0x0204]) := by decide

/-- C6. -/
theorem test_ret_underflow : after (fun t => (t.pc, t.outcome)) (base 0x00EE) = some (0x0200, .fatal ⟨.stackUnderflow, 0x00EE, 0x0200⟩) := by decide

/-- C1. -/
theorem test_jp : after (·.pc) (base 0x1234) = some 0x0234 := by decide

/-- C25: nothing changes but the model's count of steps. -/
theorem test_jp_self : after (fun t => decide (t = (base 0x1200).nextInput)) (base 0x1200) = some true := by decide

/-- C4b and C4. -/
theorem test_call_depth : after (fun t => (t.pc, t.stack.length, t.stack.getLast?)) ((baseAt 0x0204 0x2300).setStack (List.replicate 15 0x0200)) =
    some (0x0300, 16, some 0x0204) ∧
    after (fun t => (t.pc, t.stack.length, t.outcome)) ((baseAt 0x0204 0x2300).setStack (List.replicate 16 0x0200)) =
    some (0x0204, 16, .fatal ⟨.stackOverflow, 0x2300, 0x0204⟩) := by decide

/-- C9. -/
theorem test_sei_taken : after (·.pc) (withRegs [(3, 0x2A)] (baseAt 0x0210 0x332A)) = some 0x0214 := by decide

/-- C21. -/
theorem test_sei_wraps : after (·.pc) (baseAt 0xFFFE 0x3000) = some 0x0002 := by decide

/-- C11. -/
theorem test_snei_taken : after (·.pc) (base 0x4001) = some 0x0204 := by decide

/-- C12. -/
theorem test_snei_not_taken : after (·.pc) (base 0x4000) = some 0x0202 := by decide

/-- C13. -/
theorem test_sne_taken : after (·.pc) (withRegs [(1, 5), (2, 6)] (baseAt 0x0220 0x9120)) = some 0x0224 := by decide

/-- C15. -/
theorem test_sne_same_register : after (·.pc) (withRegs [(4, 0x99)] (base 0x9440)) = some 0x0202 := by decide

/-- A2. -/
theorem test_ldi_vf : after (·.getV 15) (withRegs [(15, 1)] (base 0x6F33)) = some 0x33 := by decide

/-- C18. -/
theorem test_ldi_straddles_top : after (fun t => (t.pc, t.getV 1)) (baseAt 0x0FFF 0x6102) = some (0x1001, 2) := by decide

/-- A3. -/
theorem test_addi_no_flag : after (fun t => (t.getV 2, t.getV 15)) (withRegs [(2, 0xFE)] (base 0x7205)) = some (0x03, 0) := by decide

/-- A5. -/
theorem test_addi_vf_wraps : after (·.getV 15) (withRegs [(15, 0xFF)] (base 0x7F01)) = some 0x00 := by decide

/-- A6. -/
theorem test_mov : after (fun t => (t.getV 0, t.getV 1)) (withRegs [(1, 0x7F)] (base 0x8010)) = some (0x7F, 0x7F) := by decide

/-- A8. -/
theorem test_and : after (fun t => (t.getV 4, t.getV 5, t.getV 15)) (withRegs [(4, 0xCC), (5, 0xAA), (15, 7)] (base 0x8452)) =
    some (0x88, 0xAA, 7) := by decide

/-- A10. -/
theorem test_add_carry : after (fun t => (t.getV 3, t.getV 2, t.getV 15)) (withRegs [(3, 0xFF), (2, 0x07)] (base 0x8324)) = some (0x06, 0x07, 1) := by decide

/-- A14. -/
theorem test_add_into_vf : after (·.getV 15) (withRegs [(15, 3), (1, 4)] (base 0x8F14)) = some 0 := by decide

/-- A20. -/
theorem test_sub_borrow : after (fun t => (t.getV 3, t.getV 1, t.getV 15)) (withRegs [(3, 0), (1, 5)] (base 0x8315)) = some (0xFB, 5, 0) := by decide

/-- A21. -/
theorem test_sub_equal : after (fun t => (t.getV 3, t.getV 15)) (withRegs [(3, 5), (1, 5)] (base 0x8315)) = some (0, 1) := by decide

/-- A36. -/
theorem test_shr_y_not_read : after (fun t => (t.getV 6, t.getV 15)) (withRegs [(6, 0x9D)] (base 0x86F6)) = some (0x4E, 1) := by decide

/-- A34. -/
theorem test_shr_vf : after (·.getV 15) (withRegs [(15, 3)] (base 0x8F06)) = some 1 := by decide

/-- M2. -/
theorem test_ldix : after (·.I) (base 0xAFFF) = some 0x0FFF := by decide

/-- A40. -/
theorem test_rnd : after (·.getV 3) ((base 0xC30F).supply 0 0xA7) = some 0x07 := by decide

/-- A42. -/
theorem test_rnd_vf : after (·.getV 15) ((base 0xCFFF).supply 0 0x5C) = some 0x5C := by decide

/-- G10. -/
theorem test_drw_collision_order : after (fun t => (fbGet t.fb 5 5, fbGet t.fb 6 5, t.delta, t.getV 15))
    (withOn [(5, 5)] (withMem [(0x300, 0xC0)] (withRegs [(0, 5), (1, 5)] ((base 0xD011).setI 0x0300)))) =
    some (false, true, [⟨5, 5, false⟩, ⟨6, 5, true⟩], 1) := by decide

/-- G15. -/
theorem test_drw_wraps_memory : after (fun t => (t.delta, t.I, t.getV 15)) (withMem [(0xFFE, 0x80), (0xFFF, 0x40), (0x000, 0x20), (0x001, 0x10)]
    ((base 0xD014).setI 0x0FFE)) =
    some ([⟨0, 0, true⟩, ⟨1, 1, true⟩, ⟨2, 2, true⟩, ⟨3, 3, true⟩], 0x0FFE, 0) := by decide

/-- K6. -/
theorem test_skp_high_value : after (fun t => (t.pc, t.getKey 5)) (withRegs [(2, 0x15)] ((base 0xE29E).setKey 5 true)) = some (0x0204, false) := by decide

/-- K5. -/
theorem test_skp_other_key : after (fun t => (t.pc, t.getKey 5, t.getKey 6))
    (withRegs [(2, 5)] (((base 0xE29E).setKey 5 true).setKey 6 true)) = some (0x0204, false, true) := by decide

/-- K3. -/
theorem test_sknp_down : after (fun t => (t.pc, t.getKey 7)) (withRegs [(0, 7)] ((base 0xE0A1).setKey 7 true)) = some (0x0202, false) := by decide

/-- K4. -/
theorem test_sknp_up : after (·.pc) (withRegs [(0, 7)] (base 0xE0A1)) = some 0x0204 := by decide

/-- T33. -/
theorem test_gdt : after (fun t => (t.getV 1, t.dtStart, t.dtT0)) (((base 0xF107).setTimer 60 1000).supply 1500 0) = some (30, 60, 1000) := by decide

/-- T30. -/
theorem test_gdt_after_reset : after (·.getV 1) ((base 0xF107).supply 123456 0) = some 0 := by decide

/-- T34. -/
theorem test_sdt : after (fun t => (t.dtStart, t.dtT0)) ((withRegs [(0, 10)] ((base 0xF015).setTimer 60 1000)).supply 1500 0) =
    some (10, 1500) := by decide

/-- T35. -/
theorem test_sst : after (·.st) (withRegs [(2, 0x1E)] (base 0xF218)) = some 0x1E := by decide

/-- M3. -/
theorem test_addix_wraps : after (fun t => (t.I, t.getV 15)) (withRegs [(1, 0x20)] ((base 0xF11E).setI 0x0FF0)) = some (0x0010, 1) := by decide

/-- M8. -/
theorem test_addix_vf : after (fun t => (t.I, t.getV 15)) (withRegs [(15, 1)] ((base 0xFF1E).setI 0x0100)) = some (0x0101, 0) := by decide

/-- M9b. -/
theorem test_font : after (·.I) (withRegs [(0, 0x0A)] (base 0xF029)) = some 0x0082 := by decide

/-- M9f. -/
theorem test_font_high_value : after (·.I) (withRegs [(0, 0xFF)] (base 0xF029)) = some 0x009B := by decide

/-- M10. -/
theorem test_bcd : after (fun t => (t.readByte 0x300, t.readByte 0x301, t.readByte 0x302, t.I)) (withRegs [(0, 157)] ((base 0xF033).setI 0x0300)) =
    some (1, 5, 7, 0x0300) := by decide

/-- M15. -/
theorem test_bcd_wraps : after (fun t => (t.readByte 0xFFE, t.readByte 0xFFF, t.readByte 0x000)) (withRegs [(0, 234)] ((base 0xF033).setI 0x0FFE)) =
    some (2, 3, 4) := by decide

/-- M20. -/
theorem test_ldm : after (fun t => (regs 4 t, t.I)) (withMem [(0x300, 1), (0x301, 5), (0x302, 7), (0x303, 9)]
    (withRegs [(3, 0x33)] ((base 0xF265).setI 0x0300))) = some ([1, 5, 7, 0x33], 0x0300) := by decide

/-- M22. -/
theorem test_ldm_wraps : after (regs 5) (withMem [(0xFFE, 0xA1), (0xFFF, 0xA2), (0x000, 0xA3), (0x001, 0xA4)] ((base 0xF365).setI 0x0FFE)) =
    some [0xA1, 0xA2, 0xA3, 0xA4, 0] := by decide

/-! ## Timer, host operations, reset and the latch -/

/-- T2, T3, T11, T12, T16, T18, T23. -/
theorem test_dt_boundaries : dtValue 60 1000 1016 = 60 ∧ dtValue 60 1000 1017 = 59 ∧ dtValue 60 1000 1999 = 1 ∧ dtValue 60 1000 2000 = 0 ∧
    dtValue 255 1000 5234 = 1 ∧ dtValue 255 1000 5250 = 0 ∧ dtValue 60 1000 500 = 60 := by decide

/-- H4 and H6. -/
theorem test_drain : (drain { State.reset with delta := [⟨5, 5, false⟩, ⟨6, 5, true⟩] }).1 = ⟨false, [⟨5, 5, false⟩, ⟨6, 5, true⟩]⟩ ∧
    (drain (drain State.reset).2).1 = ⟨false, []⟩ := by decide

/-- H1 and H3. -/
theorem test_press_release : (press 3 State.reset).getKey 3 = true ∧ (release 3 (press 3 State.reset)).getKey 3 = false := by decide

/-- R245: the host sees FB, ST and FAULT. -/
theorem test_observe : (observe (State.reset.setSt 7)).st = 7 ∧ (observe (takeFatal .stackUnderflow 0x00EE State.reset)).fault =
    some ⟨.stackUnderflow, 0x00EE, 0x0200⟩ := by decide

/-- The table of R261. -/
theorem test_fatal_codes : FatalKind.code .unrecognizedOpcode = 1 ∧ FatalKind.code .stackUnderflow = 2 ∧ FatalKind.code .stackOverflow = 3 := by decide

/-- R30: with STACK_DEPTH unbounded the seventeenth CALL pushes. -/
theorem test_call_unbounded : after (fun t => (t.pc, t.stack.length, t.fault))
    (((base 0x2300).setStack (List.replicate 16 0x0200)).setStackDepth none) = some (0x0300, 17, none) := by decide

/-- R7, R290: another FONT and another STACK_DEPTH, the zero bytes over the default font's. -/
theorem test_reset_other_font : (match resetWith ⟨some 1, Vector.replicate 80 0⟩ [0x60] with | .ok s => (s.readByte 0x050, s.readByte 0x09F, s.readByte 0x200, s.stackDepth) | .error _ => (1, 1, 1, none)) =
    (0, 0, 0x60, some 1) := by decide

/-- H9. -/
theorem test_reset_empty_first_step : after (·.outcome) State.reset = some (.fatal ⟨.unrecognizedOpcode, 0x0000, 0x0200⟩) := by decide

/-- H11: nothing changes but the model's count of steps. -/
theorem test_latched_step : after (fun t => decide (t = (takeFatal .unrecognizedOpcode 0 (State.reset.setPc 0x0206)).nextInput))
    (takeFatal .unrecognizedOpcode 0 (State.reset.setPc 0x0206)) = some true := by decide

/-- H13 (the default font, G1). -/
theorem test_reset_font : State.reset.readByte 0x050 = 0xF0 ∧ State.reset.readByte 0x054 = 0xF0 ∧ State.reset.readByte 0x09B = 0xF0 ∧
    State.reset.readByte 0x09F = 0x80 ∧ State.reset.readByte 0x04F = 0 ∧ State.reset.readByte 0x0A0 = 0 := by decide

/-- A40 through the inputs of R120: they are used up by the step. -/
theorem test_step_with : (match stepWith 0 0xA7 (base 0xC30F) with | .next t => decide (t.getV 3 = 0x07 ∧ t.inputs = [] ∧ t.inputIndex = 1) | _ => false) = true := by decide

/-- H8: 3585 bytes are rejected. -/
theorem test_reset_oversized : resetProgram (List.replicate 3585 0x12) = .error .oversizedProgram := by
  rw [resetProgram, resetWith, List.length_replicate, if_pos (by decide)]

/-- H10: an odd image, the second byte of the word is the zero fill. -/
theorem test_reset_odd : (match resetProgram [0x60] with | .ok s => after (fun t => (t.pc, t.getV 0, t.outcome)) s | .error _ => none) =
    some (0x0202, 0, .ok) := by decide

/-! ## Witnesses: concrete states and operands that meet the hypotheses of each obligation that has some -/

/-- `PcPlus` at its boundary: the last `pc` from which pc + 2 and pc + 4 need no wrap. -/
theorem wit_pc_no_wrap : (State.reset.setPc 0xFFFD).pc.toNat + 2 < 65536 ∧ (State.reset.setPc 0xFFFB).pc.toNat + 4 < 65536 ∧
    State.reset.pc.toNat + 4 < 65536 := by decide

/-- One entry, several entries, none. -/
theorem wit_ReturnRule : (State.reset.setStack [0xFFFF]).stack = [] ++ [0xFFFF] ∧ (State.reset.setStack [0x0204, 0x020A]).stack = [0x0204] ++ [0x020A] ∧
    State.reset.stack = [] := by decide

/-- A jump to itself. -/
theorem wit_JumpRule : State.reset.pc.toNat = (0x200 : Addr).toNat := by decide

/-- Empty, one below full, unbounded with more than 16 entries, full. -/
theorem wit_CallRule : (∀ d, State.reset.stackDepth = some d → State.reset.stack.length < d) ∧
    (∀ d, (State.reset.setStack (List.replicate 15 0)).stackDepth = some d → (List.replicate 15 (0 : Word)).length < d) ∧
    (∀ d, ((State.reset.setStack (List.replicate 17 0)).setStackDepth none).stackDepth = some d → 17 < d) ∧
    (State.reset.setStack (List.replicate 16 0)).stackDepth = some (State.reset.setStack (List.replicate 16 0)).stack.length := by
  refine ⟨?_, ?_, ?_, by decide⟩ <;> intro d h <;> cases h <;> decide

/-- Equal and not equal. -/
theorem wit_SkipIfEqualImmediateRule : State.reset.getV 0 = 0x00 ∧ State.reset.getV 15 ≠ 0xFF := by decide

/-- Not equal and equal. -/
theorem wit_SkipIfNotEqualImmediateRule : State.reset.getV 0 ≠ 0xFF ∧ State.reset.getV 15 = 0x00 := by decide

/-- The same register twice. -/
theorem wit_CopyRegisterRule : (15 : Reg) = 15 := by decide

/-- The same register twice. -/
theorem wit_BitwiseAndRule : (0 : Reg) = 0 := by decide

/-- A destination other than VF, the last one. -/
theorem wit_AddWithCarryRule : (14 : Reg) ≠ VF ∧ (0 : Reg) ≠ VF := by decide

/-- A destination other than VF, the last one. -/
theorem wit_SubtractWithNotBorrowRule : (14 : Reg) ≠ VF ∧ (0 : Reg) ≠ VF := by decide

/-- A destination other than VF, the last one. -/
theorem wit_ShiftRightRule : (14 : Reg) ≠ VF ∧ (0 : Reg) ≠ VF := by decide

/-- Different and equal. -/
theorem wit_SkipIfRegistersDifferRule : (State.reset.setV 1 5).getV 1 ≠ (State.reset.setV 1 5).getV 2 ∧ State.reset.getV 1 = State.reset.getV 2 := by decide

/-- A covered pixel that is on, at the corner of the screen, and a sprite over pixels that are off. -/
theorem wit_DrawSpriteRule : covers (withMem [(0, 0x80)] State.reset) 63 31 1 63 31 = true ∧ fbGet (withOn [(63, 31)] State.reset).fb 63 31 = true ∧
    fbGet State.reset.fb 63 31 = false := by decide

/-- A register above 15 names the key of its low nibble; Down and Up. -/
theorem wit_SkipIfKeyDownRule : (5 : Fin 16).val = ((State.reset.setV 2 0x15).getV 2).toNat % 16 ∧ (State.reset.setKey 5 true).getKey 5 = true ∧
    State.reset.getKey 15 = false := by decide

/-- The last key; Up and Down. -/
theorem wit_SkipIfKeyUpRule : (15 : Fin 16).val = ((State.reset.setV 2 0xFF).getV 2).toNat % 16 ∧ State.reset.getKey 15 = false ∧
    (State.reset.setKey 15 true).getKey 15 = true := by decide

/-- A register that is 0. -/
theorem wit_StartDelayTimerRule : State.reset.getV 0 = 0 := by decide

/-- An instruction other than SST, a step that runs one, a host operation. -/
theorem wit_SetSoundTimerRule : (∀ x, (Instr.cls : Instr) ≠ .sst x) ∧ (∀ x, decodeWord (base 0x00E0).fetchWord ≠ .ok (.sst x)) ∧
    after (·.pc) (base 0x00E0) = some 0x0202 ∧ (Action.host .drain ≠ .step) := by decide

/-- Canonical memory, the three stored addresses, one of them over the top, and an address outside. -/
theorem wit_StoreDecimalDigitsRule : State.reset.mem.wf = true ∧ memIndex 0xFFE = memIndex ((State.reset.setI 0x0FFE).dataAddr 0) ∧
    memIndex 0xFFF = memIndex ((State.reset.setI 0x0FFE).dataAddr 1) ∧ memIndex 0x000 = memIndex ((State.reset.setI 0x0FFE).dataAddr 2) ∧
    ∀ k, k < 3 → memIndex 0x001 ≠ memIndex ((State.reset.setI 0x0FFE).dataAddr k) := by decide

/-- The destination itself, the first register above it, the last register. -/
theorem wit_LoadRegistersRule : (3 : Reg) ≤ 3 ∧ (3 : Reg) < 4 ∧ (15 : Reg) ≤ 15 := by decide

/-- A word that decodes. -/
theorem wit_EncodeInvertsDecode : decodeWord 0xD125#16 = .ok (.drw 1 2 5) := by decide

/-- A row of the table, a word it selects, a word it does not select. -/
theorem wit_TableRowSelectsExactlyItsWords : (OpRow.mk .SNE 0xF00F#16 0x9000#16) ∈ opTable ∧ (OpRow.mk .SNE 0xF00F#16 0x9000#16).selects 0x9AB0#16 = true ∧
    (OpRow.mk .SNE 0xF00F#16 0x9000#16).selects 0x9AB1#16 = false := by decide

/-- A line that assembles. -/
theorem wit_AssemblerSpellsEachInstruction : assemble ⟨.ADD, [.reg 10, .reg 11]⟩ = some (.add 10 11) := by decide

/-- A running machine whose bytes decode, the second byte over the top of memory. -/
theorem wit_StepRunsDecodedInstruction : (baseAt 0x0FFF 0x6102).fault = none ∧
    decodeWord (wordOfBytes ((baseAt 0x0FFF 0x6102).readByte (baseAt 0x0FFF 0x6102).pc.toNat)
      ((baseAt 0x0FFF 0x6102).readByte ((baseAt 0x0FFF 0x6102).pc.toNat + 1))) = .ok (.ldi 1 2) := by decide

/-- A running machine at an Illegal word. -/
theorem wit_IllegalWordIsFatal : (base 0x9AB1).fault = none ∧ decodeWord (base 0x9AB1).fetchWord = .error (.illegal 0x9AB1) := by decide

/-- A latched machine. -/
theorem wit_LatchedMachineStaysLatched : (takeFatal .stackUnderflow 0x00EE State.reset).fault = some ⟨.stackUnderflow, 0x00EE, 0x0200⟩ := by decide

/-- A machine that is not latched. -/
theorem wit_EveryStepCompletes : State.reset.fault = none := by decide

/-- Each kind of fatal error, and a step that is not fatal. -/
theorem wit_FatalErrorsHappenExactlyWhen : (base 0x0000).fault = none ∧ (base 0x0000).stackDepth = some 16 ∧ (base 0x0000).stack.length ≤ 16 ∧ decodeWord (base 0x0000).fetchWord = .error (.illegal 0x0000) ∧
    decodeWord (base 0x00EE).fetchWord = .ok .ret ∧ (base 0x00EE).stack = [] ∧
    decodeWord (base 0x2300).fetchWord = .ok (.call 0x300) ∧ ((base 0x2300).setStack (List.replicate 16 0)).stackDepth =
      some ((base 0x2300).setStack (List.replicate 16 0)).stack.length ∧
    after (·.outcome) (base 0x6000) = some .ok := by decide

/-- Two states that differ in their inputs; instructions that read none, one and the other input; equal times and equal random bytes. -/
theorem wit_InputsReadOnlyByThreeInstructions : (∃ ins n, (State.reset.supply 7 9) = { State.reset with inputs := ins, inputIndex := n }) ∧
    (∀ x, (Instr.cls : Instr) ≠ .gdt x) ∧ (∀ x, (Instr.rnd 0 0 : Instr) ≠ .sdt x) ∧ (∀ x nn, (Instr.gdt 0 : Instr) ≠ .rnd x nn) ∧
    (State.reset.supply 7 9).nowMs = ((State.reset.supply 7 9).supply 7 8).nowMs ∧
    (State.reset.supply 7 9).rnd = ((State.reset.supply 7 9).supply 6 9).rnd := by
  refine ⟨⟨[⟨7, 9⟩], 0, rfl⟩, ?_, ?_, ?_, rfl, rfl⟩ <;> simp

/-- A next state that is not fatal. -/
theorem wit_PcEffectOfEveryInstruction : State.reset.fault = none ∧ (State.reset.setPc 0x0FFF).fault = none ∧ exec (.jp 0xFFF) State.reset = .next (State.reset.setPc 0x0FFF) := ⟨rfl, rfl, rfl⟩

/-- A store that changes a byte. -/
theorem wit_OnlyBcdStoresToMemory : after (fun t => t.readByte 0x302) (withRegs [(0, 157)] ((base 0xF033).setI 0x0300)) = some 7 ∧
    (withRegs [(0, 157)] ((base 0xF033).setI 0x0300)).readByte 0x302 = 0 := by decide

/-- A change of I. -/
theorem wit_IndexRegisterWriters : after (·.I) (base 0xAFFF) = some 0x0FFF ∧ (base 0xAFFF).I = 0 := by decide

/-- A push and a pop. -/
theorem wit_StackUsers : after (·.stack) (base 0x2300) = some [0x0200] ∧ (base 0x2300).stack = [] ∧
    after (·.stack) ((base 0x00EE).setStack [0x0204]) = some [] := by decide

/-- A change of the framebuffer, of the queue, of the flag. -/
theorem wit_DisplayWriters : after (fun t => (fbGet t.fb 0 0, t.delta)) (withMem [(0, 0x80)] (base 0xD001)) = some (true, [⟨0, 0, true⟩]) ∧
    after (·.fullRedraw) (base 0x00E0) = some true ∧ (base 0x00E0).fullRedraw = false := by decide

/-- An instruction other than GDT and SDT, and a step that runs one. -/
theorem wit_TimerTouchedOnlyBySdtAndGdt : (∀ x, (Instr.sst 0 : Instr) ≠ .gdt x) ∧ (∀ x, (Instr.sst 0 : Instr) ≠ .sdt x) ∧
    (∀ x, decodeWord (base 0xF018).fetchWord ≠ .ok (.sdt x)) ∧ after (·.st) (base 0xF018) = some 0 ∧ (Action.host .drain ≠ .step) := by decide

/-- An Up latch that a press takes Down, a Down latch that a release and a step take Up, a register of at most 15. -/
theorem wit_KeyLatchTransitions : State.reset.getKey 5 = false ∧ (press 5 State.reset).getKey 5 = true ∧ (release 5 (press 5 State.reset)).getKey 5 = false ∧
    after (·.getKey 5) (withRegs [(2, 5)] (press 5 (base 0xE29E))) = some false ∧ ((withRegs [(2, 5)] (press 5 (base 0xE29E))).getV 2).toNat ≤ 15 ∧
    (1 : Fin 16) ≠ 5 := by decide

/-- A change of VF as an ordinary destination. -/
theorem wit_FlagRegisterWriters : after (·.getV VF) (base 0x6F33) = some 0x33 ∧ (base 0x6F33).getV VF = 0 := by decide

/-- Two memories in canonical form that read alike. -/
theorem wit_EqualReadsMeanEqualMemories : Memory.wf [] = true ∧ Memory.wf (Memory.write (Memory.write [] 0x300 1) 0x300 0) = true ∧
    Memory.write (Memory.write [] 0x300 1) 0x300 0 = [] := by decide

/-- BCD just before the word it stores over, at the top of memory too. -/
theorem wit_StoreSeenByNextFetch : (base 0xF033).mem.wf = true ∧ ((base 0xF033).setI 0x0202).I.toNat % 4096 = ((base 0xF033).pc.toNat + 2) % 4096 ∧
    ((baseAt 0x0FFE 0xF033).setI 0x0000).I.toNat % 4096 = ((baseAt 0x0FFE 0xF033).pc.toNat + 2) % 4096 := by decide

/-- A state that meets the invariant, and its next state. -/
theorem wit_StepKeepsInvariant : Inv State.reset ∧ after (·.pc) State.reset = some 0x0200 := ⟨⟨by decide, by decide, by decide, fun d h => by cases h; decide, fun r h => by cases h⟩, by decide⟩

/-- A state that meets the invariant, and a reset that is accepted. -/
theorem wit_HostKeepsInvariant : Inv State.reset ∧ resetWith ⟨none, Vector.replicate 80 0⟩ [0x12, 0x00] =
      .ok ((State.reset.setMem (initialMem (Vector.replicate 80 0) [0x12, 0x00])).setStackDepth none) ∧
    Config.Params.wf ⟨none, Vector.replicate 80 0⟩ = true ∧ Config.params.wf = true ∧ Config.Params.wf ⟨some 1, Vector.replicate 80 0⟩ = true := ⟨⟨by decide, by decide, by decide, fun d h => by cases h; decide, fun r h => by cases h⟩, rfl, rfl, rfl, rfl⟩

/-- Operands other than VF, and a pixel the first draw turns on. -/
theorem wit_SpriteXorRoundTrip : (0 : Reg) ≠ VF ∧ (14 : Reg) ≠ VF ∧ fbGet (withMem [(0, 0x80)] (base 0xD001)).fb 0 0 = false ∧
    after (fun t => fbGet t.fb 0 0) (withMem [(0, 0x80)] (base 0xD001)) = some true := by decide

/-- A time before the start, the time at which the ticks reach 60, equal timers and a later time. -/
theorem wit_DelayTimerLaws : 500 ≤ 1000 ∧ 1000 + (1000 * (60 : Byte).toNat + 59) / 60 ≤ 2000 ∧ (State.reset.supply 2 0).dtStart = (State.reset.supply 1 0).dtStart ∧
    (State.reset.supply 2 0).dtT0 = (State.reset.supply 1 0).dtT0 ∧ (State.reset.supply 1 0).nowMs ≤ (State.reset.supply 2 0).nowMs := by decide

/-- One below full, and unbounded. -/
theorem wit_CallThenReturnResumes :
    (∀ d, (State.reset.setStack (List.replicate 15 0)).stackDepth = some d → (List.replicate 15 (0 : Word)).length < d) ∧
    (∀ d, (State.reset.setStackDepth none).stackDepth = some d → (State.reset.setStackDepth none).stack.length < d) := by
  refine ⟨?_, ?_⟩ <;> intro d h <;> cases h
  decide

/-- A step and a host operation, and a run from an unbounded machine that ends in another fatal error. -/
theorem wit_StackDepthIsFixed : (State.reset.setStackDepth none).fault = none ∧ (State.reset.setStackDepth none).stackDepth = none ∧
    (match runActions [.host (.press 1), .step] (State.reset.setStackDepth none) with
      | .next t => decide (t.fault = some ⟨.unrecognizedOpcode, 0x0000, 0x0200⟩) | _ => false) = true := by decide

/-- A register above 15. -/
theorem wit_KeyPressConsumedOnce : (15 : Fin 16).val = ((State.reset.setV 2 0xFF).getV 2).toNat % 16 := by decide

/-- A draw that appends a triple. -/
theorem wit_SpriteDeltasBounded : after (fun t => decide (⟨63, 31, true⟩ ∈ t.delta)) (withMem [(0, 0x80)] (withRegs [(0, 63), (1, 31)] (base 0xD011))) = some true := by decide

/-- A later state with the fields that SDT left and the same time. -/
theorem wit_StartDelayTimerRule_later : ((State.reset.supply 7 0).setTimer 9 7).dtStart = ((State.reset.supply 7 1).setTimer 9 7).dtStart ∧
    ((State.reset.supply 7 0).setTimer 9 7).dtT0 = ((State.reset.supply 7 1).setTimer 9 7).dtT0 ∧
    ((State.reset.supply 7 0).setTimer 9 7).nowMs = ((State.reset.supply 7 1).setTimer 9 7).nowMs := by decide

/-- Addresses on both sides of the font table's two ends, and the last one. -/
theorem wit_ResetValues : 0x04F < 4096 ∧ ¬ 0x050 ≤ 0x04F ∧ 0x09F < 0x0A0 ∧ ¬ 0x0A0 < 0x0A0 ∧ 0xFFF < 4096 := by decide

/-- An image that fits, an image that does not, a byte of an image, and addresses on both sides of it. -/
theorem wit_ResetProgramImage : ([0x12, 0x00] : List Byte).length ≤ 3584 ∧ 3584 < (List.replicate 3585 (0x12 : Byte)).length ∧ 1 < ([0x12, 0x00] : List Byte).length ∧
    79 < 80 ∧ 0x04F < 0x050 ∧ 0x0A0 ≤ 0x1FF ∧ 0x1FF < 0x200 ∧ 0x200 + ([0x12, 0x00] : List Byte).length ≤ 0xFFF := by
  refine ⟨by decide, ?_, by decide, by decide, by decide, by decide, by decide, by decide⟩
  rw [List.length_replicate]
  decide

end Sys2Proof.Tests
end

/-! ## What one step can do, and what each instruction does to the timer and to the key latches -/

namespace Sys2Proof.Machine

/-- What a step can do (40_step_cycle.md R121 to R124): a latched machine stays as it is, an Illegal word is recorded in
FAULT, any other word runs its instruction; and the step's inputs are used up. -/
theorem step_cases {s t : State} (h : step s = .next t) :
    (s.fault ≠ none ∧ t = s.nextInput) ∨
    (s.fault = none ∧ (∃ e, decodeWord s.fetchWord = .error e) ∧ t = (illegalStep s).nextInput) ∨
    (s.fault = none ∧ ∃ i u, decodeWord s.fetchWord = .ok i ∧ exec i s = .next u ∧ t = u.nextInput) := by
  obtain ⟨u, hu, rfl⟩ := step_next h
  unfold engineStep at hu
  split at hu
  · next r hr =>
    cases hu
    exact .inl ⟨by simp [hr], rfl⟩
  · next hf =>
    split at hu
    · next e he =>
      cases hu
      exact .inr (.inl ⟨hf, ⟨e, he⟩, rfl⟩)
    · next i hi => exact .inr (.inr ⟨hf, i, u, hi, hu, rfl⟩)

/-! ### The delay timer -/

/-- The timer's value is at most its start value, so it fits in a byte. -/
theorem dtValue_lt (start : Byte) (t0 nowMs : Nat) : dtValue start t0 nowMs < 256 :=
  Nat.lt_of_le_of_lt (Nat.sub_le _ _) start.isLt

@[simp] theorem setTimer_self (s : State) : s.setTimer s.dtStart s.dtT0 = s := rfl

theorem skipIf_setTimer (s : State) (v : Byte) (n : Nat) (c : Bool) :
    (s.setTimer v n).skipIf c = (s.skipIf c).setTimer v n := by cases c <;> rfl

theorem loadRegs_setTimer (s : State) (v : Byte) (n k : Nat) : loadRegs (s.setTimer v n) k = loadRegs s k := by
  induction k with
  | zero => rfl
  | succ k ih => simp [loadRegs, ih]

/-- R39: an instruction other than GDT and SDT neither reads nor writes the two timer fields. -/
theorem exec_setTimer (i : Instr) (s : State) (v : Byte) (n : Nat) (hg : ∀ x, i ≠ .gdt x) (hs : ∀ x, i ≠ .sdt x) :
    exec i (s.setTimer v n) = mapNext (fun t => t.setTimer v n) (exec i s) := by
  cases i with
  | gdt x => exact absurd rfl (hg x)
  | sdt x => exact absurd rfl (hs x)
  | ret =>
    simp only [exec, execRet, setTimer_stack]
    cases s.stack.getLast? <;> rfl
  | call nnn =>
    have hfull : (s.setTimer v n).stackFull = s.stackFull := rfl
    simp only [exec, execCall, hfull]
    cases s.stackFull <;> rfl
  | sei x nn | snei x nn | sne x y => exact congrArg Host.Outcome.next (skipIf_setTimer s v n _)
  | skp x | sknp x => exact congrArg Host.Outcome.next (skipIf_setTimer (s.setKey (s.keyIndex x) false) v n _)
  | ldm x =>
    simp only [exec, execLdm, loadRegs_setTimer]
    rfl
  | _ => rfl

/-- An instruction other than SDT leaves both timer fields. -/
theorem exec_timer {i : Instr} {s t : State} (h : exec i s = .next t) (hs : ∀ x, i ≠ .sdt x) :
    t.dtStart = s.dtStart ∧ t.dtT0 = s.dtT0 := by
  by_cases hg : ∃ x, i = .gdt x
  · obtain ⟨x, rfl⟩ := hg
    cases h
    exact ⟨rfl, rfl⟩
  · -- Run with its own two values in the fields, the instruction leaves those.
    have hself := exec_setTimer i s s.dtStart s.dtT0 (not_exists.1 hg) hs
    rw [setTimer_self, h] at hself
    have ht : t = t.setTimer s.dtStart s.dtT0 := Host.Outcome.next.inj hself
    rw [ht]
    exact ⟨rfl, rfl⟩

/-- Nothing ticks: a step that does not run SDT leaves both timer fields. -/
theorem step_timer {s t : State} (h : step s = .next t) (hs : ∀ x, decodeWord s.fetchWord ≠ .ok (.sdt x)) :
    t.dtStart = s.dtStart ∧ t.dtT0 = s.dtT0 := by
  obtain ⟨-, rfl⟩ | ⟨-, -, rfl⟩ | ⟨-, i, u, hi, hu, rfl⟩ := step_cases h
  · exact ⟨rfl, rfl⟩
  · exact ⟨rfl, rfl⟩
  · exact exec_timer (t := u) hu fun x hx => hs x (hx ▸ hi)

theorem applyHost_timer (op : HostOp) (s : State) :
    (applyHost op s).dtStart = s.dtStart ∧ (applyHost op s).dtT0 = s.dtT0 := by
  cases op <;> exact ⟨rfl, rfl⟩

/-! ### The key latches -/

/-- Writing a latch changes no other part of the state. -/
theorem sameBut_setKey (s : State) (k : Fin 16) (c : Bool) : SameBut [.key] s (s.setKey k c) := by
  intro p hp
  cases p with
  | key => exact absurd (List.mem_singleton_self _) hp
  | _ => simp [SamePart]

theorem keyIndex_val (s : State) (x : Reg) : (s.keyIndex x).val = (s.getV x).toNat % 16 := lowNibble_val _

/-- A register that holds a key's number names that key. -/
theorem keyIndex_of_getV {s : State} {x : Reg} {k : Fin 16} (h : (s.getV x).toNat = k.val) : s.keyIndex x = k :=
  Fin.ext (by rw [keyIndex_val, h, Nat.mod_eq_of_lt k.isLt])

/-- What SKP and SKNP leave in every latch (R225, R226): the latch they test is forced Up. -/
theorem getKey_setKey_skipIf (s : State) (j k : Fin 16) (c : Bool) :
    ((s.setKey j false).skipIf c).getKey k = if k = j then false else s.getKey k := by
  rw [skipIf_getKey, getKey_setKey]

/-- An instruction leaves a latch as it is, but for the latch that SKP or SKNP tests, which it leaves Up. -/
theorem exec_getKey {i : Instr} {s t : State} (h : exec i s = .next t) (k : Fin 16) :
    t.getKey k = s.getKey k ∨ (t.getKey k = false ∧ ∃ x, (i = .skp x ∨ i = .sknp x) ∧ s.keyIndex x = k) := by
  cases i with
  | skp x | sknp x =>
    cases h
    rw [getKey_setKey_skipIf]
    by_cases hk : k = s.keyIndex x
    · exact .inr ⟨if_pos hk, x, by simp, hk.symm⟩
    · exact .inl (if_neg hk)
  | ret =>
    obtain ⟨-, hr⟩ | ⟨l, r, -, hr⟩ := execRet_cases s <;>
    · cases hr.symm.trans h
      exact .inl rfl
  | call nnn =>
    obtain ⟨-, hc⟩ | ⟨-, hc⟩ := execCall_cases nnn s <;>
    · cases hc.symm.trans h
      exact .inl rfl
  | sei x nn | snei x nn | sne x y =>
    cases h
    exact .inl (skipIf_getKey s _ k)
  | _ =>
    cases h
    exact .inl rfl

/-- A step leaves a latch as it is, or it runs SKP or SKNP on that latch and leaves it Up. -/
theorem step_getKey {s t : State} (h : step s = .next t) (k : Fin 16) :
    t.getKey k = s.getKey k ∨ (t.getKey k = false ∧ s.fault = none ∧
      ∃ x, (decodeWord s.fetchWord = .ok (.skp x) ∨ decodeWord s.fetchWord = .ok (.sknp x)) ∧ s.keyIndex x = k) := by
  obtain ⟨-, rfl⟩ | ⟨-, -, rfl⟩ | ⟨hf, i, u, hi, hu, rfl⟩ := step_cases h
  · exact .inl rfl
  · exact .inl rfl
  · refine (exec_getKey hu k).imp id ?_
    rintro ⟨hup, x, rfl | rfl, hx⟩
    · exact ⟨hup, hf, x, .inl hi, hx⟩
    · exact ⟨hup, hf, x, .inr hi, hx⟩

/-- A host operation leaves a latch as it is, but for `press` and `release` of it. -/
theorem applyHost_getKey (op : HostOp) (s : State) (k : Fin 16) :
    (applyHost op s).getKey k = s.getKey k ∨ (op = .press k ∧ (applyHost op s).getKey k = true) ∨
      (op = .release k ∧ (applyHost op s).getKey k = false) := by
  cases op with
  | press j =>
    by_cases hk : k = j
    · exact .inr (.inl ⟨by rw [hk], hk ▸ getKey_setKey_self s j true⟩)
    · exact .inl (getKey_setKey_ne s true hk)
  | release j =>
    by_cases hk : k = j
    · exact .inr (.inr ⟨by rw [hk], hk ▸ getKey_setKey_self s j false⟩)
    · exact .inl (getKey_setKey_ne s false hk)
  | drain | supply nowMs rnd => exact .inl rfl

/-- R41, R241: a latch goes Down by `press` of it alone. -/
theorem act_key_down {a : Action} {s t : State} {k : Fin 16} (h : act a s = .next t) (hs : s.getKey k = false)
    (ht : t.getKey k = true) : a = .host (.press k) := by
  cases a with
  | host op =>
    cases h
    obtain hsame | ⟨rfl, -⟩ | ⟨-, hup⟩ := applyHost_getKey op s k
    · simp [hs, ht] at hsame
    · rfl
    · simp [ht] at hup
  | step =>
    obtain hsame | ⟨hup, -⟩ := step_getKey h k
    · simp [hs, ht] at hsame
    · simp [ht] at hup

/-- R41, R242: a latch goes Up by `release` of it, or by a step that runs SKP or SKNP on it. -/
theorem act_key_up {a : Action} {s t : State} {k : Fin 16} (h : act a s = .next t) (hs : s.getKey k = true)
    (ht : t.getKey k = false) :
    a = .host (.release k) ∨ (a = .step ∧ s.fault = none ∧
      ∃ x, (decodeWord s.fetchWord = .ok (.skp x) ∨ decodeWord s.fetchWord = .ok (.sknp x)) ∧ s.keyIndex x = k) := by
  cases a with
  | host op =>
    cases h
    obtain hsame | ⟨-, hdown⟩ | ⟨rfl, -⟩ := applyHost_getKey op s k
    · simp [hs, ht] at hsame
    · simp [ht] at hdown
    · exact .inl rfl
  | step =>
    obtain hsame | ⟨-, htest⟩ := step_getKey h k
    · simp [hs, ht] at hsame
    · exact .inr ⟨rfl, htest⟩

/-! ### The obligations -/

/-- Settles O44: every arm but GDT and SDT commutes with a change of the two timer fields, so it leaves them too. -/
theorem timerTouchedOnlyBySdtAndGdt : Obligations.TimerTouchedOnlyBySdtAndGdt := by
  refine ⟨fun x s => ⟨_, rfl, rfl, rfl⟩, fun x s => ⟨_, rfl, rfl, rfl, ?_⟩, exec_setTimer, ?_⟩
  · rw [fallThrough_getV, getV_setV_self, BitVec.toNat_ofNat, Nat.mod_eq_of_lt (dtValue_lt _ _ _)]
  · intro a s t h hsdt
    cases a with
    | host op =>
      cases h
      exact applyHost_timer op s
    | step => exact step_timer h (hsdt rfl)

/-- Settles O45: from what each host operation and each instruction can do to one latch. -/
theorem keyLatchTransitions : Obligations.KeyLatchTransitions := by
  refine ⟨fun k s => ⟨getKey_setKey_self s k true, fun _ => getKey_setKey_ne s true, sameBut_setKey s k true⟩,
    fun k s => ⟨getKey_setKey_self s k false, fun _ => getKey_setKey_ne s false, sameBut_setKey s k false⟩,
    fun a s t k h => ⟨act_key_down h, fun hs ht => ?_⟩, fun x s k hk => ?_⟩
  · refine (act_key_up h hs ht).imp id ?_
    rintro ⟨ha, hf, x, hrun, rfl⟩
    exact ⟨ha, hf, x, hrun, fun hle => by rw [keyIndex_val, Nat.mod_eq_of_lt (by omega)]⟩
  · obtain rfl := keyIndex_of_getV hk
    have hup (c : Bool) : ((s.setKey (s.keyIndex x) false).skipIf c).getKey (s.keyIndex x) = false := by
      rw [getKey_setKey_skipIf, if_pos rfl]
    exact ⟨⟨_, rfl, hup _⟩, ⟨_, rfl, hup _⟩⟩

end Sys2Proof.Machine

/-! ## What reads the inputs of a step -/

namespace Sys2Proof.Machine

/-- The state with the model's two input fields replaced (log 5). -/
def State.setInputs (s : State) (ins : List StepInput) (n : Nat) : State := { s with inputs := ins, inputIndex := n }

@[simp] theorem setInputs_stack (s : State) (ins : List StepInput) (n : Nat) : (s.setInputs ins n).stack = s.stack := rfl
@[simp] theorem setInputs_fault (s : State) (ins : List StepInput) (n : Nat) : (s.setInputs ins n).fault = s.fault := rfl
@[simp] theorem setInputs_fetch (s : State) (ins : List StepInput) (n : Nat) : (s.setInputs ins n).fetch = s.fetch := rfl
@[simp] theorem setInputs_stackFull (s : State) (ins : List StepInput) (n : Nat) :
    (s.setInputs ins n).stackFull = s.stackFull := rfl

theorem skipIf_setInputs (s : State) (ins : List StepInput) (n : Nat) (c : Bool) :
    (s.setInputs ins n).skipIf c = (s.skipIf c).setInputs ins n := by cases c <;> rfl

theorem loadRegs_setInputs (s : State) (ins : List StepInput) (n k : Nat) :
    loadRegs (s.setInputs ins n) k = loadRegs s k := by
  induction k with
  | zero => rfl
  | succ k ih => rw [loadRegs, loadRegs, ih]; rfl

/-- R126: an instruction commutes with a change of the inputs that keeps the values it reads: now_ms for GDT and SDT,
rnd for RND. -/
theorem exec_setInputs (i : Instr) (s : State) (ins : List StepInput) (n : Nat)
    (hnow : (s.setInputs ins n).nowMs = s.nowMs ∨ (∀ x, i ≠ .gdt x) ∧ ∀ x, i ≠ .sdt x)
    (hrnd : (s.setInputs ins n).rnd = s.rnd ∨ ∀ x nn, i ≠ .rnd x nn) :
    exec i (s.setInputs ins n) = mapNext (fun t => t.setInputs ins n) (exec i s) := by
  cases i with
  | gdt x =>
    have hnow := hnow.resolve_right fun h => h.1 x rfl
    simp only [exec, execGdt, hnow]
    rfl
  | sdt x =>
    have hnow := hnow.resolve_right fun h => h.2 x rfl
    simp only [exec, execSdt, hnow]
    rfl
  | rnd x nn =>
    have hrnd := hrnd.resolve_right fun h => h x nn rfl
    simp only [exec, execRnd, hrnd]
    rfl
  | ret =>
    simp only [exec, execRet, setInputs_stack]
    cases s.stack.getLast? <;> rfl
  | call nnn =>
    simp only [exec, execCall]
    rw [setInputs_stackFull]
    cases s.stackFull <;> rfl
  | sei x nn | snei x nn | sne x y => exact congrArg Host.Outcome.next (skipIf_setInputs s ins n _)
  | skp x | sknp x => exact congrArg Host.Outcome.next (skipIf_setInputs (s.setKey (s.keyIndex x) false) ins n _)
  | ldm x =>
    simp only [exec, execLdm, loadRegs_setInputs]
    rfl
  | _ => rfl

/-- Before the inputs are used up, a step commutes with a change of them that keeps both values. -/
theorem engineStep_setInputs (s : State) (ins : List StepInput) (n : Nat)
    (hnow : (s.setInputs ins n).nowMs = s.nowMs) (hrnd : (s.setInputs ins n).rnd = s.rnd) :
    engineStep (s.setInputs ins n) = mapNext (fun t => t.setInputs ins n) (engineStep s) := by
  simp only [engineStep, setInputs_fault, setInputs_fetch]
  cases s.fault with
  | some r => rfl
  | none =>
    cases s.fetch with
    | error e => rfl
    | ok i => exact exec_setInputs i s ins n (.inl hnow) (.inl hrnd)

theorem step_eq_mapNext (s : State) : step s = mapNext State.nextInput (engineStep s) := by
  unfold step
  cases engineStep s <;> rfl

/-- A step commutes with a change of the inputs that keeps both values, and leaves the changed inputs used up. -/
theorem step_setInputs (s : State) (ins : List StepInput) (n : Nat)
    (hnow : (s.setInputs ins n).nowMs = s.nowMs) (hrnd : (s.setInputs ins n).rnd = s.rnd) :
    step (s.setInputs ins n) = mapNext (fun t => t.setInputs ins.tail (n + 1)) (step s) := by
  rw [step_eq_mapNext, step_eq_mapNext, engineStep_setInputs s ins n hnow hrnd]
  cases engineStep s <;> rfl

/-! ### The obligation -/

/-- Settles O38: every arm commutes with a change of the inputs that keeps the values the arm reads, and the rest of
the step reads neither. -/
theorem inputsReadOnlyByThreeInstructions : Obligations.InputsReadOnlyByThreeInstructions := by
  rintro s _ ⟨ins, n, rfl⟩
  exact ⟨fun i hg hs hr => exec_setInputs i s ins n (.inr ⟨hg, hs⟩) (.inr hr),
    fun i hg hs hrnd => exec_setInputs i s ins n (.inr ⟨hg, hs⟩) (.inl hrnd),
    fun i hr hnow => exec_setInputs i s ins n (.inl hnow) (.inr hr),
    step_setInputs s ins n⟩

end Sys2Proof.Machine

/-! ## The word of every instruction decodes to it -/

namespace Sys2Proof

theorem encNNN_eq_ofNat (f : Nibble) (nnn : Addr) :
    encNNN f nnn = BitVec.ofNat 16 (f.toNat * 4096 + nnn.toNat) := by
  rw [← encNNN_toNat, BitVec.ofNat_toNat, BitVec.setWidth_eq]

theorem encXNN_eq_ofNat (f : Nibble) (x : Reg) (nn : Byte) :
    encXNN f x nn = BitVec.ofNat 16 (f.toNat * 4096 + x.val * 256 + nn.toNat) := by
  rw [← encXNN_toNat, BitVec.ofNat_toNat, BitVec.setWidth_eq]

theorem encXYN_eq_ofNat (f : Nibble) (x y : Reg) (n : Nibble) :
    encXYN f x y n = BitVec.ofNat 16 (f.toNat * 4096 + x.val * 256 + y.val * 16 + n.toNat) := by
  rw [← encXYN_toNat, BitVec.ofNat_toNat, BitVec.setWidth_eq]

/-- R94, R97: the fields of an instruction's word select the instruction's own arm of the decoder. -/
theorem decodeWord_encode (i : Instr) : decodeWord (encode i) = .ok i := by
  cases i with
  | cls | ret => rfl
  | jp | call | ldix => simp [encode, decodeWord]
  | sei | snei | ldi | addi | rnd => simp [encode, decodeWord]
  | drw => simp [encode, decodeWord]
  | mov | and | add | sub | shr => simp [encode, decodeWord, decodeFamily8]
  | sne => simp [encode, decodeWord, decodeFamily9]
  | skp | sknp => simp [encode, decodeWord, decodeFamilyE]
  | gdt | sdt | sst | addix | font | bcd | ldm => simp [encode, decodeWord, decodeFamilyF]

end Sys2Proof

/-! ## What the writes of pc do -/

namespace Sys2Proof.Machine

@[simp] theorem setPc_self (s : State) : s.setPc s.pc = s := rfl

/-- Writing pc changes no other part of the state. -/
theorem sameBut_setPc (s : State) (p : Word) : SameBut [.pc] s (s.setPc p) := by
  intro part hpart
  cases part with
  | pc => exact absurd (List.mem_singleton_self _) hpart
  | _ => simp [SamePart]

theorem sameBut_skipIf (s : State) (c : Bool) : SameBut [.pc] s (s.skipIf c) := by
  cases c <;> exact sameBut_setPc s _

theorem pcPlus_advance (s : State) (k : Nat) : PcPlus k s (s.advance k) := by
  intro hwrap
  rw [advance_pc, BitVec.toNat_add, BitVec.toNat_ofNat]
  omega

theorem pcPlus_skipIf_taken (s : State) {c : Bool} (h : c = true) : PcPlus 4 s (s.skipIf c) :=
  h ▸ pcPlus_advance s 4

theorem pcPlus_skipIf_not_taken (s : State) {c : Bool} (h : c = false) : PcPlus 2 s (s.skipIf c) :=
  h ▸ pcPlus_advance s 2

/-- A skip tested by a condition that holds under `P` and fails under `Q`: pc + 4, or pc + 2, and only pc changes. -/
theorem skipIf_rule (s : State) {c : Bool} {P Q : Prop} (htaken : P → c = true) (hnot : Q → c = false) :
    (P → PcPlus 4 s (s.skipIf c)) ∧ (Q → PcPlus 2 s (s.skipIf c)) ∧ SameBut [.pc] s (s.skipIf c) :=
  ⟨fun hp => pcPlus_skipIf_taken s (htaken hp), fun hq => pcPlus_skipIf_not_taken s (hnot hq), sameBut_skipIf s c⟩

/-! ### The obligations -/

/-- Settles O3: JP is the one write of pc, and writing the address that pc already holds is no change. -/
theorem jumpRule : Obligations.JumpRule := by
  intro nnn
  refine ⟨?_, fun s => ⟨s.setPc (zextAddr nnn), rfl, zextAddr_toNat nnn, sameBut_setPc s _, fun hself => ?_⟩⟩
  · rw [← decodeWord_encode (.jp nnn), encode, encNNN_eq_ofNat]
    rfl
  · have hpc : zextAddr nnn = s.pc := BitVec.eq_of_toNat_eq ((zextAddr_toNat nnn).trans hself.symm)
    rw [hpc, setPc_self]

/-- Settles O5: the skip test of SEI is equality with the immediate. -/
theorem skipIfEqualImmediateRule : Obligations.SkipIfEqualImmediateRule := by
  intro x nn
  refine ⟨?_, fun s => ⟨s.skipIf (s.getV x == nn), rfl, skipIf_rule s beq_iff_eq.2 beq_eq_false_iff_ne.2⟩⟩
  rw [← decodeWord_encode (.sei x nn), encode, encXNN_eq_ofNat]
  rfl

/-- Settles O6: the skip test of SNEI is that of SEI inverted. -/
theorem skipIfNotEqualImmediateRule : Obligations.SkipIfNotEqualImmediateRule := by
  intro x nn
  refine ⟨?_, fun s => ⟨s.skipIf (s.getV x != nn), rfl, skipIf_rule s bne_iff_ne.2 bne_eq_false_iff_eq.2⟩⟩
  rw [← decodeWord_encode (.snei x nn), encode, encXNN_eq_ofNat]
  rfl

/-- Settles O14: the skip test of SNE is that the two registers differ, which a register and itself never do. -/
theorem skipIfRegistersDifferRule : Obligations.SkipIfRegistersDifferRule := by
  intro x y
  refine ⟨?_, fun s => ⟨s.skipIf (s.getV x != s.getV y), rfl, skipIf_rule s bne_iff_ne.2 bne_eq_false_iff_eq.2⟩⟩
  rw [← decodeWord_encode (.sne x y), encode, encXYN_eq_ofNat]
  rfl

end Sys2Proof.Machine

/-! ## The words with two registers, written with both selectors in front -/

namespace Sys2Proof

theorem encXYN_eq_ofNat_selectors_first (f : Nibble) (x y : Reg) (n : Nibble) :
    encXYN f x y n = BitVec.ofNat 16 (f.toNat * 4096 + n.toNat + x.val * 256 + y.val * 16) := by
  rw [encXYN_eq_ofNat]
  exact congrArg _ (by omega)

end Sys2Proof

/-! ## What a write of one register does -/

namespace Sys2Proof.Machine

/-! ### Frames compose -/

theorem SamePart.trans {p : Part} {s t u : State} (hst : SamePart s t p) (htu : SamePart t u p) : SamePart s u p := by
  cases p with
  | V => exact fun r => (htu r).trans (hst r)
  | mem => exact fun a => (htu a).trans (hst a)
  | fb => exact fun px py => (htu px py).trans (hst px py)
  | key => exact fun k => (htu k).trans (hst k)
  | timer | inputs => exact ⟨htu.1.trans hst.1, htu.2.trans hst.2⟩
  | _ => exact Eq.trans htu hst

/-- Two changes one after the other change the parts that either of them changes. -/
theorem SameBut.trans {ps qs : List Part} {s t u : State} (hst : SameBut ps s t) (htu : SameBut qs t u) :
    SameBut (ps ++ qs) s u := by
  intro p hp
  rw [List.mem_append, not_or] at hp
  exact (hst p hp.1).trans (htu p hp.2)

/-- An instruction that falls through changes pc beside what it changed before. -/
theorem SameBut.fallThrough {ps : List Part} {s t : State} (h : SameBut ps s t) : SameBut (ps ++ [.pc]) s t.fallThrough :=
  h.trans (sameBut_setPc t _)

/-! ### Register writes -/

/-- Writing a register changes no other part of the state. -/
theorem sameBut_setV (s : State) (x : Reg) (v : Byte) : SameBut [.V] s (s.setV x v) := by
  intro p hp
  cases p with
  | V => exact absurd (List.mem_singleton_self _) hp
  | _ => simp [SamePart]

@[simp] theorem setV_getV_self (s : State) (x : Reg) : s.setV x (s.getV x) = s := by
  simp [State.setV, State.getV]

/-! ### A register write that falls through -/

theorem getV_writeReg_self (s : State) (x : Reg) (v : Byte) : (s.writeReg x v).getV x = v := by
  rw [getV_writeReg, if_pos rfl]

theorem sameRegsBut_writeReg (s : State) (x : Reg) (v : Byte) : SameRegsBut [x] s (s.writeReg x v) := by
  intro r hr
  rw [getV_writeReg, if_neg (List.ne_of_not_mem_cons hr)]

theorem pcPlus_writeReg (s : State) (x : Reg) (v : Byte) : PcPlus 2 s (s.writeReg x v) :=
  pcPlus_advance (s.setV x v) 2

theorem sameBut_writeReg (s : State) (x : Reg) (v : Byte) : SameBut [.V, .pc] s (s.writeReg x v) :=
  (sameBut_setV s x v).fallThrough

/-- A register written with its own value: nothing but pc changes. -/
theorem sameBut_writeReg_own {s : State} {x : Reg} {v : Byte} (h : v = s.getV x) : SameBut [.pc] s (s.writeReg x v) := by
  rw [State.writeReg, h, setV_getV_self]
  exact sameBut_setPc s _

/-! ### The obligations -/

/-- Settles O7: LDI is the write of the immediate. -/
theorem loadImmediateRule : Obligations.LoadImmediateRule := by
  intro x nn
  refine ⟨?_, fun s => ⟨s.writeReg x nn, rfl, getV_writeReg_self s x nn, sameRegsBut_writeReg s x nn,
    pcPlus_writeReg s x nn, sameBut_writeReg s x nn⟩⟩
  rw [← decodeWord_encode (.ldi x nn), encode, encXNN_eq_ofNat]
  rfl

/-- Settles O8: ADDI is the write of the sum's low byte, and of no flag. -/
theorem addImmediateRule : Obligations.AddImmediateRule := by
  intro x nn
  refine ⟨?_, fun s => ⟨s.writeReg x (addByte (s.getV x) nn), rfl, ?_, sameRegsBut_writeReg s x _,
    pcPlus_writeReg s x _, sameBut_writeReg s x _⟩⟩
  · rw [← decodeWord_encode (.addi x nn), encode, encXNN_eq_ofNat]
    rfl
  · rw [getV_writeReg_self, addByte_toNat]

/-- Settles O9: MOV is the write of V[y], which for x = y is the register's own value. -/
theorem copyRegisterRule : Obligations.CopyRegisterRule := by
  intro x y
  refine ⟨?_, fun s => ⟨s.writeReg x (s.getV y), rfl, getV_writeReg_self s x _, sameRegsBut_writeReg s x _,
    fun hxy => sameBut_writeReg_own (by rw [hxy]), pcPlus_writeReg s x _, sameBut_writeReg s x _⟩⟩
  rw [← decodeWord_encode (.mov x y), encode, encXYN_eq_ofNat_selectors_first]
  rfl

/-- Settles O10: AND is the write of the bitwise and, which for x = y is the register's own value. -/
theorem bitwiseAndRule : Obligations.BitwiseAndRule := by
  intro x y
  refine ⟨?_, fun s => ⟨s.writeReg x (s.getV x &&& s.getV y), rfl, fun k => ?_, sameRegsBut_writeReg s x _,
    fun hxy => sameBut_writeReg_own (by rw [hxy, BitVec.and_self]), pcPlus_writeReg s x _, sameBut_writeReg s x _⟩⟩
  · rw [← decodeWord_encode (.and x y), encode, encXYN_eq_ofNat_selectors_first]
    rfl
  · rw [getV_writeReg_self, BitVec.getLsbD_and]

end Sys2Proof.Machine

/-! ## What a write of I does -/

namespace Sys2Proof.Machine

/-- Writing I changes no other part of the state. -/
theorem sameBut_setI (s : State) (a : Word) : SameBut [.I] s (s.setI a) := by
  intro p hp
  cases p with
  | I => exact absurd (List.mem_singleton_self _) hp
  | _ => simp [SamePart]

/-! ### The obligation -/

/-- Settles O15: LDIX is the write of the zero-extended address to I, then the fall-through. -/
theorem loadIndexRule : Obligations.LoadIndexRule := by
  intro nnn
  refine ⟨?_, fun s => ⟨(s.setI (zextAddr nnn)).fallThrough, rfl, zextAddr_toNat nnn,
    pcPlus_advance (s.setI (zextAddr nnn)) 2, (sameBut_setI s (zextAddr nnn)).fallThrough⟩⟩
  rw [← decodeWord_encode (.ldix nnn), encode, encNNN_eq_ofNat]
  rfl

end Sys2Proof.Machine

/-! ## The words with one register, written with both selectors in front -/

namespace Sys2Proof

theorem encXNN_eq_ofNat_selectors_first (f : Nibble) (x : Reg) (nn : Byte) :
    encXNN f x nn = BitVec.ofNat 16 (f.toNat * 4096 + nn.toNat + x.val * 256) := by
  rw [encXNN_eq_ofNat]
  exact congrArg _ (by omega)

end Sys2Proof

/-! ## The sound timer -/

namespace Sys2Proof.Machine

/-- Writing ST changes no other part of the state. -/
theorem sameBut_setSt (s : State) (v : Byte) : SameBut [.sound] s (s.setSt v) := by
  intro p hp
  cases p with
  | sound => exact absurd (List.mem_singleton_self _) hp
  | _ => simp [SamePart]

@[simp] theorem setSt_self (s : State) : s.setSt s.st = s := rfl
@[simp] theorem setSt_stackFull (s : State) (v : Byte) : (s.setSt v).stackFull = s.stackFull := rfl

theorem skipIf_setSt (s : State) (v : Byte) (c : Bool) : (s.setSt v).skipIf c = (s.skipIf c).setSt v := by
  cases c <;> rfl

theorem loadRegs_setSt (s : State) (v : Byte) (k : Nat) : loadRegs (s.setSt v) k = loadRegs s k := by
  induction k with
  | zero => rfl
  | succ k ih => simp [loadRegs, ih]

/-- R224: an instruction other than SST neither reads nor writes ST. -/
theorem exec_setSt (i : Instr) (s : State) (v : Byte) (hi : ∀ x, i ≠ .sst x) :
    exec i (s.setSt v) = mapNext (fun t => t.setSt v) (exec i s) := by
  cases i with
  | sst x => exact absurd rfl (hi x)
  | ret =>
    simp only [exec, execRet, setSt_stack]
    cases s.stack.getLast? <;> rfl
  | call nnn =>
    simp only [exec, execCall]
    rw [setSt_stackFull]
    cases s.stackFull <;> rfl
  | sei x nn | snei x nn | sne x y => exact congrArg Host.Outcome.next (skipIf_setSt s v _)
  | skp x | sknp x => exact congrArg Host.Outcome.next (skipIf_setSt (s.setKey (s.keyIndex x) false) v _)
  | ldm x =>
    simp only [exec, execLdm, loadRegs_setSt]
    rfl
  | _ => rfl

/-- An instruction other than SST leaves ST: run with its own value there, it leaves that value. -/
theorem exec_st {i : Instr} {s t : State} (h : exec i s = .next t) (hi : ∀ x, i ≠ .sst x) : t.st = s.st := by
  have hself := exec_setSt i s s.st hi
  rw [setSt_self, h] at hself
  have ht : t = t.setSt s.st := Host.Outcome.next.inj hself
  rw [ht, setSt_st]

/-- A step that does not run SST leaves ST. -/
theorem step_st {s t : State} (h : step s = .next t) (hs : ∀ x, decodeWord s.fetchWord ≠ .ok (.sst x)) :
    t.st = s.st := by
  obtain ⟨-, rfl⟩ | ⟨-, -, rfl⟩ | ⟨-, i, u, hi, hu, rfl⟩ := step_cases h
  · rfl
  · rfl
  · exact exec_st (t := u) hu fun x hx => hs x (hx ▸ hi)

theorem applyHost_st (op : HostOp) (s : State) : (applyHost op s).st = s.st := by cases op <;> rfl

/-! ### The obligation -/

/-- Settles O22: SST is the write of V[x] to ST; every other arm commutes with a change of ST, so it leaves ST too. -/
theorem setSoundTimerRule : Obligations.SetSoundTimerRule := by
  refine ⟨fun x => ⟨?_, fun s => ⟨(s.setSt (s.getV x)).fallThrough, rfl, rfl,
    pcPlus_advance (s.setSt (s.getV x)) 2, (sameBut_setSt s (s.getV x)).fallThrough⟩⟩, fun a s t h hsst => ?_, exec_setSt⟩
  · rw [← decodeWord_encode (.sst x), encode, encXNN_eq_ofNat_selectors_first]
    rfl
  · cases a with
    | host op =>
      cases h
      exact applyHost_st op s
    | step => exact step_st h (hsst rfl)

end Sys2Proof.Machine

/-! ## The start of the delay timer -/

namespace Sys2Proof.Machine

/-- Writing the two timer fields changes no other part of the state. -/
theorem sameBut_setTimer (s : State) (v : Byte) (n : Nat) : SameBut [.timer] s (s.setTimer v n) := by
  intro p hp
  cases p with
  | timer => exact absurd (List.mem_singleton_self _) hp
  | _ => simp [SamePart]

/-- R220: no tick has passed at the time of the start. -/
@[simp] theorem dtValue_at_start (start : Byte) (t0 : Nat) : dtValue start t0 t0 = start.toNat := by
  simp [dtValue, dtTicks]

/-- R223: a timer started at 0 reads 0. -/
@[simp] theorem dtValue_of_start_zero (t0 nowMs : Nat) : dtValue 0 t0 nowMs = 0 := Nat.zero_sub _

/-- GDT reads the start value itself when its step has the time of the start. -/
theorem exec_gdt_at_start (y : Reg) {w : State} (hnow : w.nowMs = w.dtT0) :
    ∃ u, exec (.gdt y) w = .next u ∧ u.getV y = w.dtStart := by
  obtain ⟨-, hgdt, -⟩ := timerTouchedOnlyBySdtAndGdt
  obtain ⟨u, hu, -, -, hread⟩ := hgdt y w
  rw [hnow, dtValue_at_start] at hread
  exact ⟨u, hu, BitVec.eq_of_toNat_eq hread⟩

/-! ### The obligation -/

/-- Settles O21: SDT is the write of V[x] and the step's time to the two timer fields, from which GDT at the same time
reads V[x] back. -/
theorem startDelayTimerRule : Obligations.StartDelayTimerRule := by
  intro x
  refine ⟨?_, fun s => ⟨(s.setTimer (s.getV x) s.nowMs).fallThrough, rfl, rfl, rfl, fun y w hstart ht0 hnow => ?_,
    fun hzero n => ?_, pcPlus_advance (s.setTimer (s.getV x) s.nowMs) 2,
    (sameBut_setTimer s (s.getV x) s.nowMs).fallThrough⟩⟩
  · rw [← decodeWord_encode (.sdt x), encode, encXNN_eq_ofNat_selectors_first]
    rfl
  · obtain ⟨u, hu, hread⟩ := exec_gdt_at_start y (hnow.trans ht0.symm)
    exact ⟨u, hu, hread.trans hstart⟩
  · rw [fallThrough_dtStart, setTimer_dtStart, hzero, dtValue_of_start_zero]

end Sys2Proof.Machine

/-! ## The machine that reset leaves -/

namespace Sys2Proof.Machine

/-! ### Memory after reset -/

/-- Outside the font table a blank byte is zero. -/
theorem blank_eq_zero {a : Nat} (h : a < 0x050 ∨ 0x0A0 ≤ a) : Memory.blank a = 0 := by
  unfold Memory.blank
  split
  · next hfont =>
    have hlen : Config.font.length ≤ a - Config.fontStart := by
      simp only [Config.fontStart] at hfont ⊢
      exact Nat.le_sub_of_add_le (h.resolve_left (by omega))
    rw [List.getD_eq_getElem?_getD, List.getElem?_eq_none hlen, Option.getD_none]
  · rfl

/-- A load that fits in memory leaves every byte below it and above it alone. -/
theorem read_load_outside (m : Memory) {addr b : Nat} {bs : List Byte} (hb : b < 4096) (hfit : addr + bs.length ≤ 4096)
    (hout : b < addr ∨ addr + bs.length ≤ b) : (m.load addr bs).read b = m.read b := by
  refine read_load_other m addr b bs fun k hk => ?_
  simp only [memIndex, Config.memSize]
  omega

/-- The image covers nothing outside its own addresses. -/
theorem read_initialMem_outside_program (font : Vector Byte 80) {program : List Byte} (hfit : program.length ≤ 3584)
    {a : Nat} (ha : a < 4096) (hout : a < 0x200 ∨ 0x200 + program.length ≤ a) :
    (initialMem font program).read a = (Memory.load [] 0x050 font.toList).read a :=
  read_load_outside _ ha (Nat.add_le_add_left hfit 0x200) hout

theorem read_initialMem_program (font : Vector Byte 80) {program : List Byte} (hfit : program.length ≤ 3584) {k : Nat}
    (hk : k < program.length) : (initialMem font program).read (0x200 + k) = program[k] :=
  read_load (wf_load wf_nil _ _) 0x200 k program (Nat.add_le_add_left hfit 0x200) hk

theorem read_initialMem_font (font : Vector Byte 80) {program : List Byte} (hfit : program.length ≤ 3584) {k : Nat}
    (hk : k < 80) : (initialMem font program).read (0x050 + k) = font[k] := by
  have hlen : font.toList.length = 80 := Vector.length_toList
  calc (initialMem font program).read (0x050 + k)
      = (Memory.load [] 0x050 font.toList).read (0x050 + k) :=
        read_initialMem_outside_program font hfit (by omega) (.inl (by omega))
    _ = font.toList[k] := read_load wf_nil 0x050 k font.toList (by rw [hlen]; decide) (by omega)
    _ = font[k] := Vector.getElem_toList _

theorem read_initialMem_zero (font : Vector Byte 80) {program : List Byte} (hfit : program.length ≤ 3584) {a : Nat}
    (ha : a < 4096) (hout : a < 0x050 ∨ (0x0A0 ≤ a ∧ a < 0x200) ∨ 0x200 + program.length ≤ a) :
    (initialMem font program).read a = 0 := by
  have hlen : font.toList.length = 80 := Vector.length_toList
  calc (initialMem font program).read a
      = (Memory.load [] 0x050 font.toList).read a := read_initialMem_outside_program font hfit ha (by omega)
    _ = Memory.read [] a := read_load_outside _ ha (by omega) (by omega)
    _ = Memory.blank a := congrArg Memory.blank (Nat.mod_eq_of_lt ha)
    _ = 0 := blank_eq_zero (by omega)

/-! ### The state after reset -/

/-- The state that `resetWith` leaves when it accepts an image. -/
def resetState (p : Config.Params) (program : List Byte) : State :=
  (State.reset.setMem (initialMem p.font program)).setStackDepth p.stackDepth

theorem resetWith_of_oversized (p : Config.Params) {program : List Byte} (h : 3584 < program.length) :
    resetWith p program = .error .oversizedProgram := if_pos h

theorem resetWith_of_fits (p : Config.Params) {program : List Byte} (h : program.length ≤ 3584) :
    resetWith p program = .ok (resetState p program) := if_neg (Nat.not_lt.2 h)

/-- Writing memory changes no other part of the state. -/
theorem sameBut_setMem (s : State) (m : Memory) : SameBut [.mem] s (s.setMem m) := by
  intro p hp
  cases p with
  | mem => exact absurd (List.mem_singleton_self _) hp
  | _ => simp [SamePart]

/-- Setting STACK_DEPTH changes no other part of the state. -/
theorem sameBut_setStackDepth (s : State) (d : Option Nat) : SameBut [.depth] s (s.setStackDepth d) := by
  intro p hp
  cases p with
  | depth => exact absurd (List.mem_singleton_self _) hp
  | _ => simp [SamePart]

theorem sameBut_resetState (p : Config.Params) (program : List Byte) :
    SameBut [.mem, .depth] State.reset (resetState p program) :=
  (sameBut_setMem _ _).trans (sameBut_setStackDepth _ _)

/-- The empty program leaves the word 0x0000 at 0x200. -/
theorem fetchWord_resetState_nil (p : Config.Params) : (resetState p []).fetchWord = 0x0000#16 := by
  have hzero (a : Nat) (hlo : 0x200 ≤ a) (hhi : a < 4096) : (resetState p []).readByte a = 0 :=
    read_initialMem_zero p.font (program := []) (Nat.zero_le _) hhi (.inr (.inr hlo))
  rw [fetchWord_eq, show (resetState p []).pc.toNat = 0x200 from rfl, hzero 0x200 (by decide) (by decide),
    hzero (0x200 + 1) (by decide) (by decide)]
  rfl

/-- R123: the step of a machine that is not latched, on a word outside the opcode table. -/
theorem step_of_illegal {s : State} (hf : s.fault = none) {e : DecodeError} (he : decodeWord s.fetchWord = .error e) :
    step s = .next (illegalStep s).nextInput := by
  have hfetch : s.fetch = .error e := he
  simp only [step, engineStep, hf, hfetch]

/-! ### The obligation -/

/-- Settles O59: the font is loaded over a memory that is zero outside the font table, then the image, which lies wholly
above the font; the empty image leaves the word 0x0000, which no row of the opcode table selects. -/
theorem resetProgramImage : Obligations.ResetProgramImage := by
  intro p
  refine ⟨fun program => ⟨resetWith_of_oversized p, fun hfit => ⟨resetState p program, resetWith_of_fits p hfit,
    fun _ => read_initialMem_program p.font hfit, fun _ => read_initialMem_font p.font hfit,
    fun _ => read_initialMem_zero p.font hfit, rfl, rfl, sameBut_resetState p program⟩⟩, ?_⟩
  have hword := fetchWord_resetState_nil p
  have hillegal : decodeWord (resetState p []).fetchWord = .error (.illegal 0x0000#16) := by
    rw [hword]
    rfl
  refine ⟨resetState p [], _, resetWith_of_fits p (Nat.zero_le _), step_of_illegal rfl hillegal, ?_⟩
  show StepOutcome.fatal ⟨.unrecognizedOpcode, (resetState p []).fetchWord, 0x0200#16⟩ = _
  rw [hword]

end Sys2Proof.Machine

/-! ## Decoder, opcode table and assembler against the encoder -/

namespace Sys2Proof

/-! ### A word put together from its own fields (30_encoding.md R91) -/

section
variable {w : Word} {f n : Nibble} {nn : Byte}

theorem encNNN_of_fields (hf : fieldFamily w = f) : encNNN f (fieldNNN w) = w := by
  subst hf
  apply BitVec.eq_of_toNat_eq
  rw [encNNN_toNat, fieldFamily_toNat, fieldNNN_toNat]
  omega

theorem encXNN_of_fields (hf : fieldFamily w = f) (hnn : fieldNN w = nn) : encXNN f (fieldX w) nn = w := by
  subst hf hnn
  apply BitVec.eq_of_toNat_eq
  rw [encXNN_toNat, fieldFamily_toNat, fieldX_val, fieldNN_toNat]
  omega

theorem encXYN_of_fields (hf : fieldFamily w = f) (hn : fieldN w = n) : encXYN f (fieldX w) (fieldY w) n = w := by
  subst hf hn
  apply BitVec.eq_of_toNat_eq
  rw [encXYN_toNat, fieldFamily_toNat, fieldX_val, fieldY_val, fieldN_toNat]
  omega

/-! ### What the decoder accepts, family by family -/

variable {i : Instr}

theorem encode_of_decodeFamily0 (h : decodeFamily0 w = .ok i) : encode i = w := by
  unfold decodeFamily0 at h
  split_ifs at h with hcls hret <;> cases h
  · exact hcls.symm
  · exact hret.symm

theorem encode_of_decodeFamily8 (hf : fieldFamily w = 0x8#4) (h : decodeFamily8 w = .ok i) : encode i = w := by
  unfold decodeFamily8 at h
  split_ifs at h <;> cases h <;> exact encXYN_of_fields hf ‹_›

theorem encode_of_decodeFamily9 (hf : fieldFamily w = 0x9#4) (h : decodeFamily9 w = .ok i) : encode i = w := by
  unfold decodeFamily9 at h
  split_ifs at h
  cases h
  exact encXYN_of_fields hf ‹_›

theorem encode_of_decodeFamilyE (hf : fieldFamily w = 0xE#4) (h : decodeFamilyE w = .ok i) : encode i = w := by
  unfold decodeFamilyE at h
  split_ifs at h <;> cases h <;> exact encXNN_of_fields hf ‹_›

theorem encode_of_decodeFamilyF (hf : fieldFamily w = 0xF#4) (h : decodeFamilyF w = .ok i) : encode i = w := by
  unfold decodeFamilyF at h
  split_ifs at h <;> cases h <;> exact encXNN_of_fields hf ‹_›

end

/-- R94, R95: every bit of a word that decodes is a field of the instruction or is checked, so none is dropped. -/
theorem encode_of_decodeWord {w : Word} {i : Instr} (h : decodeWord w = .ok i) : encode i = w := by
  have family (k : Nibble) (hk : (fieldFamily w).toNat = k.toNat) : fieldFamily w = k := BitVec.eq_of_toNat_eq hk
  unfold decodeWord at h
  split at h
  case h_1 => exact encode_of_decodeFamily0 h
  case h_2 hk => cases h; exact encNNN_of_fields (family 0x1 hk)
  case h_3 hk => cases h; exact encNNN_of_fields (family 0x2 hk)
  case h_4 hk => cases h; exact encXNN_of_fields (family 0x3 hk) rfl
  case h_5 hk => cases h; exact encXNN_of_fields (family 0x4 hk) rfl
  case h_6 => cases h
  case h_7 hk => cases h; exact encXNN_of_fields (family 0x6 hk) rfl
  case h_8 hk => cases h; exact encXNN_of_fields (family 0x7 hk) rfl
  case h_9 hk => exact encode_of_decodeFamily8 (family 0x8 hk) h
  case h_10 hk => exact encode_of_decodeFamily9 (family 0x9 hk) h
  case h_11 hk => cases h; exact encNNN_of_fields (family 0xA hk)
  case h_12 => cases h
  case h_13 hk => cases h; exact encXNN_of_fields (family 0xC hk) rfl
  case h_14 hk => cases h; exact encXYN_of_fields (family 0xD hk) rfl
  case h_15 hk => exact encode_of_decodeFamilyE (family 0xE hk) h
  case h_16 =>
    refine encode_of_decodeFamilyF (family 0xF ?_) h
    have hlt := (fieldFamily w).isLt
    show (fieldFamily w).toNat = 15
    simp only [imp_false] at *
    omega

/-- R99: what the decoder answers for a word that it rejects. -/
theorem decodeWord_error {w : Word} {e : DecodeError} (h : decodeWord w = .error e) : e = .illegal w := by
  simp only [decodeWord, decodeFamily0, decodeFamily8, decodeFamily9, decodeFamilyE, decodeFamilyF] at h
  split at h <;> grind

/-! ### The opcode table (30_encoding.md R94, R97) -/

theorem fieldFamily_and_F000 (w : Word) : fieldFamily (w &&& 0xF000#16) = fieldFamily w := by
  apply BitVec.eq_of_toNat_eq
  rw [fieldFamily_toNat, fieldFamily_toNat, and_F000_toNat]
  omega

theorem fieldFamily_and_F00F (w : Word) : fieldFamily (w &&& 0xF00F#16) = fieldFamily w := by
  apply BitVec.eq_of_toNat_eq
  rw [fieldFamily_toNat, fieldFamily_toNat, and_F00F_toNat]
  omega

theorem fieldN_and_F00F (w : Word) : fieldN (w &&& 0xF00F#16) = fieldN w := by
  apply BitVec.eq_of_toNat_eq
  rw [fieldN_toNat, fieldN_toNat, and_F00F_toNat]
  omega

theorem fieldFamily_and_F0FF (w : Word) : fieldFamily (w &&& 0xF0FF#16) = fieldFamily w := by
  apply BitVec.eq_of_toNat_eq
  rw [fieldFamily_toNat, fieldFamily_toNat, and_F0FF_toNat]
  omega

theorem fieldNN_and_F0FF (w : Word) : fieldNN (w &&& 0xF0FF#16) = fieldNN w := by
  apply BitVec.eq_of_toNat_eq
  rw [fieldNN_toNat, fieldNN_toNat, and_F0FF_toNat]
  omega

/-- The instruction of a mnemonic that has the fields of a word as its operands. -/
def Mnemonic.withFieldsOf (w : Word) : Mnemonic → Instr
  | .CLS => .cls
  | .RET => .ret
  | .JP => .jp (fieldNNN w)
  | .CALL => .call (fieldNNN w)
  | .SEI => .sei (fieldX w) (fieldNN w)
  | .SNEI => .snei (fieldX w) (fieldNN w)
  | .LDI => .ldi (fieldX w) (fieldNN w)
  | .ADDI => .addi (fieldX w) (fieldNN w)
  | .MOV => .mov (fieldX w) (fieldY w)
  | .AND => .and (fieldX w) (fieldY w)
  | .ADD => .add (fieldX w) (fieldY w)
  | .SUB => .sub (fieldX w) (fieldY w)
  | .SHR => .shr (fieldX w) (fieldY w)
  | .SNE => .sne (fieldX w) (fieldY w)
  | .LDIX => .ldix (fieldNNN w)
  | .RND => .rnd (fieldX w) (fieldNN w)
  | .DRW => .drw (fieldX w) (fieldY w) (fieldN w)
  | .SKP => .skp (fieldX w)
  | .SKNP => .sknp (fieldX w)
  | .GDT => .gdt (fieldX w)
  | .SDT => .sdt (fieldX w)
  | .SST => .sst (fieldX w)
  | .ADDIX => .addix (fieldX w)
  | .FONT => .font (fieldX w)
  | .BCD => .bcd (fieldX w)
  | .LDM => .ldm (fieldX w)

theorem mnemonic_withFieldsOf (w : Word) (m : Mnemonic) : (m.withFieldsOf w).mnemonic = m := by
  cases m <;> rfl

section
variable {w v : Word} {m : Mnemonic}

theorem encNNN_of_selects {f : Nibble} (h : (OpRow.mk m 0xF000#16 v).selects w = true) (hf : fieldFamily v = f) :
    encNNN f (fieldNNN w) = w :=
  encNNN_of_fields (by rw [← fieldFamily_and_F000, of_decide_eq_true h, hf])

theorem encXNN_of_selects {f : Nibble} (h : (OpRow.mk m 0xF000#16 v).selects w = true) (hf : fieldFamily v = f) :
    encXNN f (fieldX w) (fieldNN w) = w :=
  encXNN_of_fields (by rw [← fieldFamily_and_F000, of_decide_eq_true h, hf]) rfl

theorem encXYN_of_selects {f : Nibble} (h : (OpRow.mk m 0xF000#16 v).selects w = true) (hf : fieldFamily v = f) :
    encXYN f (fieldX w) (fieldY w) (fieldN w) = w :=
  encXYN_of_fields (by rw [← fieldFamily_and_F000, of_decide_eq_true h, hf]) rfl

theorem encXYF_of_selects {f n : Nibble} (h : (OpRow.mk m 0xF00F#16 v).selects w = true) (hf : fieldFamily v = f)
    (hn : fieldN v = n) : encXYN f (fieldX w) (fieldY w) n = w :=
  encXYN_of_fields (by rw [← fieldFamily_and_F00F, of_decide_eq_true h, hf])
    (by rw [← fieldN_and_F00F, of_decide_eq_true h, hn])

theorem encXFF_of_selects {f : Nibble} {nn : Byte} (h : (OpRow.mk m 0xF0FF#16 v).selects w = true)
    (hf : fieldFamily v = f) (hnn : fieldNN v = nn) : encXNN f (fieldX w) nn = w :=
  encXNN_of_fields (by rw [← fieldFamily_and_F0FF, of_decide_eq_true h, hf])
    (by rw [← fieldNN_and_F0FF, of_decide_eq_true h, hnn])

theorem eq_of_selects (h : (OpRow.mk m 0xFFFF#16 v).selects w = true) : v = w := by
  have hmask : w &&& 0xFFFF#16 = w := BitVec.and_allOnes
  rw [← hmask, of_decide_eq_true h]

end

/-- A word that a row selects is the word of the row's instruction with the word's own fields. -/
theorem encode_withFieldsOf {w : Word} : ∀ r ∈ opTable, r.selects w = true → encode (r.mnemonic.withFieldsOf w) = w := by
  simp only [opTable, List.forall_mem_append, List.forall_mem_cons]
  refine ⟨⟨eq_of_selects, eq_of_selects, fun h => encNNN_of_selects h rfl, fun h => encNNN_of_selects h rfl,
    fun h => encXNN_of_selects h rfl, fun h => encXNN_of_selects h rfl, fun h => encXNN_of_selects h rfl,
    fun h => encXNN_of_selects h rfl, fun h => encXYF_of_selects h rfl rfl, fun h => encXYF_of_selects h rfl rfl,
    fun h => encXYF_of_selects h rfl rfl, fun h => encXYF_of_selects h rfl rfl,
    fun h => encXYF_of_selects h rfl rfl, List.forall_mem_nil _⟩,
    fun h => encXYF_of_selects h rfl rfl, fun h => encNNN_of_selects h rfl, fun h => encXNN_of_selects h rfl,
    fun h => encXYN_of_selects h rfl, fun h => encXFF_of_selects h rfl rfl, fun h => encXFF_of_selects h rfl rfl,
    fun h => encXFF_of_selects h rfl rfl, fun h => encXFF_of_selects h rfl rfl, fun h => encXFF_of_selects h rfl rfl,
    fun h => encXFF_of_selects h rfl rfl, fun h => encXFF_of_selects h rfl rfl, fun h => encXFF_of_selects h rfl rfl,
    fun h => encXFF_of_selects h rfl rfl, List.forall_mem_nil _⟩

/-- R97: the word of every instruction is selected by a row of its mnemonic. -/
theorem encodesInRow (i : Instr) : Laws.EncodesInRow.Statement i := by
  cases i with
  | cls => exact Laws.EncodesInRow.cls
  | ret => exact Laws.EncodesInRow.ret
  | jp nnn => exact Laws.EncodesInRow.jp nnn
  | call nnn => exact Laws.EncodesInRow.call nnn
  | sei x nn => exact Laws.EncodesInRow.sei x nn
  | snei x nn => exact Laws.EncodesInRow.snei x nn
  | ldi x nn => exact Laws.EncodesInRow.ldi x nn
  | addi x nn => exact Laws.EncodesInRow.addi x nn
  | mov x y => exact Laws.EncodesInRow.mov x y
  | and x y => exact Laws.EncodesInRow.and x y
  | add x y => exact Laws.EncodesInRow.add x y
  | sub x y => exact Laws.EncodesInRow.sub x y
  | shr x y => exact Laws.EncodesInRow.shr x y
  | sne x y => exact Laws.EncodesInRow.sne x y
  | ldix nnn => exact Laws.EncodesInRow.ldix nnn
  | rnd x nn => exact Laws.EncodesInRow.rnd x nn
  | drw x y n => exact Laws.EncodesInRow.drw x y n
  | skp x => exact Laws.EncodesInRow.skp x
  | sknp x => exact Laws.EncodesInRow.sknp x
  | gdt x => exact Laws.EncodesInRow.gdt x
  | sdt x => exact Laws.EncodesInRow.sdt x
  | sst x => exact Laws.EncodesInRow.sst x
  | addix x => exact Laws.EncodesInRow.addix x
  | font x => exact Laws.EncodesInRow.font x
  | bcd x => exact Laws.EncodesInRow.bcd x
  | ldm x => exact Laws.EncodesInRow.ldm x

/-- The table has one row for each mnemonic. -/
theorem opTable_row_unique : ∀ r ∈ opTable, ∀ r' ∈ opTable, r.mnemonic = r'.mnemonic → r = r' := by decide

/-! ### The Illegal words (30_encoding.md R100), family by family -/

section
variable {w : Word}

theorem decodeFamily0_illegal_iff :
    decodeFamily0 w = .error (.illegal w) ↔ w.toNat ≠ 0x00E0 ∧ w.toNat ≠ 0x00EE := by
  simp only [decodeFamily0, BitVec.toNat_eq, BitVec.toNat_ofNat]
  split_ifs <;> simp [*]

theorem decodeFamily8_illegal_iff :
    decodeFamily8 w = .error (.illegal w) ↔ w.toNat % 16 ∈ [1, 3, 7, 8, 9, 10, 11, 12, 13, 14, 15] := by
  have hlt : w.toNat % 16 < 16 := Nat.mod_lt _ (by decide)
  simp only [decodeFamily8, BitVec.toNat_eq, fieldN_toNat, BitVec.toNat_ofNat]
  generalize w.toNat % 16 = n at hlt ⊢
  interval_cases n <;> simp

theorem decodeFamily9_illegal_iff : decodeFamily9 w = .error (.illegal w) ↔ w.toNat % 16 ≠ 0 := by
  simp only [decodeFamily9, BitVec.toNat_eq, fieldN_toNat, BitVec.toNat_ofNat]
  split_ifs <;> simp [*]

theorem decodeFamilyE_illegal_iff :
    decodeFamilyE w = .error (.illegal w) ↔ w.toNat % 256 ∉ [0x9E, 0xA1] := by
  simp only [decodeFamilyE, BitVec.toNat_eq, fieldNN_toNat, BitVec.toNat_ofNat]
  split_ifs <;> simp [*]

theorem decodeFamilyF_illegal_iff :
    decodeFamilyF w = .error (.illegal w) ↔ w.toNat % 256 ∉ [0x07, 0x15, 0x18, 0x1E, 0x29, 0x33, 0x65] := by
  simp only [decodeFamilyF, BitVec.toNat_eq, fieldNN_toNat, BitVec.toNat_ofNat]
  split_ifs <;> simp [*]

end

/-! ### The assembler (30_encoding.md R103) -/

section
variable {ops : List Operand}

theorem operandsOk_FIX (h : operandsOk .FIX ops = true) : ops = [] := by
  unfold operandsOk at h
  split at h <;> simp_all

theorem operandsOk_NNN (h : operandsOk .NNN ops = true) : ∃ nnn : Addr, ops = [.num nnn.toNat] := by
  unfold operandsOk at h
  split at h <;> simp_all
  next a => exact ⟨BitVec.ofNatLT a h, rfl⟩

theorem operandsOk_XNN (h : operandsOk .XNN ops = true) : ∃ (x : Reg) (nn : Byte), ops = [.reg x, .num nn.toNat] := by
  unfold operandsOk at h
  split at h <;> simp_all
  next x a => exact ⟨⟨⟨x, h.1⟩, rfl⟩, BitVec.ofNatLT a h.2, rfl⟩

theorem operandsOk_XYF (h : operandsOk .XYF ops = true) : ∃ x y : Reg, ops = [.reg x, .reg y] := by
  unfold operandsOk at h
  split at h <;> simp_all
  next x y => exact ⟨⟨⟨x, h.1⟩, rfl⟩, ⟨y, h.2⟩, rfl⟩

theorem operandsOk_XYN (h : operandsOk .XYN ops = true) :
    ∃ (x y : Reg) (n : Nibble), ops = [.reg x, .reg y, .num n.toNat] := by
  unfold operandsOk at h
  split at h <;> simp_all
  next x y a => exact ⟨⟨⟨x, h.1⟩, rfl⟩, ⟨⟨y, h.2.1⟩, rfl⟩, BitVec.ofNatLT a h.2.2, rfl⟩

theorem operandsOk_XFF (h : operandsOk .XFF ops = true) : ∃ x : Reg, ops = [.reg x] := by
  unfold operandsOk at h
  split at h <;> simp_all
  next x => exact ⟨⟨x, h⟩, rfl⟩

end

theorem wellFormed_spell (i : Instr) : i.spell.wellFormed = true := by
  cases i <;> simp [AsmLine.wellFormed, Instr.spell, Mnemonic.format, operandsOk] <;> omega

/-- A line spelled from an instruction reads back as that instruction. -/
theorem instrOfLine_spell (i : Instr) : instrOfLine i.spell = i := by
  cases i <;> simp [instrOfLine, Instr.spell, regAt, numAt]

/-- A well-formed line is the line of the instruction it reads as: its operands, all in range, lose nothing. -/
theorem spell_instrOfLine {l : AsmLine} (h : l.wellFormed = true) : (instrOfLine l).spell = l := by
  obtain ⟨m, ops⟩ := l
  cases m with
  | CLS | RET =>
    obtain rfl := operandsOk_FIX h
    rfl
  | JP | CALL | LDIX =>
    obtain ⟨nnn, rfl⟩ := operandsOk_NNN h
    simp [instrOfLine, Instr.spell, numAt]
  | SEI | SNEI | LDI | ADDI | RND =>
    obtain ⟨x, nn, rfl⟩ := operandsOk_XNN h
    simp [instrOfLine, Instr.spell, regAt, numAt]
  | MOV | AND | ADD | SUB | SHR | SNE =>
    obtain ⟨x, y, rfl⟩ := operandsOk_XYF h
    simp [instrOfLine, Instr.spell, regAt]
  | DRW =>
    obtain ⟨x, y, n, rfl⟩ := operandsOk_XYN h
    simp [instrOfLine, Instr.spell, regAt, numAt]
  | SKP | SKNP | GDT | SDT | SST | ADDIX | FONT | BCD | LDM =>
    obtain ⟨x, rfl⟩ := operandsOk_XFF h
    simp [instrOfLine, Instr.spell, regAt]

theorem assemble_eq_some {l : AsmLine} {i : Instr} (h : assemble l = some i) : l.wellFormed = true ∧ instrOfLine l = i := by
  simpa [assemble] using h

/-! ### The obligations -/

/-- Settles O27: the two bytes form the word again, and the word of every instruction decodes to it. -/
theorem decodeInvertsEncode : Obligations.DecodeInvertsEncode := by
  intro i rest
  simp only [encodeBytes, wordBytes, List.cons_append, List.nil_append, decodeBytes, wordOfBytes_wordBytes,
    decodeWord_encode]

/-- Settles O28: every bit of a word is checked by the decoder or kept in a field of the instruction. -/
theorem encodeInvertsDecode : Obligations.EncodeInvertsDecode := fun _ _ => encode_of_decodeWord

/-- Settles O29: a selected word is the word of the row's instruction; and the word of an instruction is selected by the
one row of its mnemonic. -/
theorem tableRowSelectsExactlyItsWords : Obligations.TableRowSelectsExactlyItsWords := by
  intro w r hr
  constructor
  · intro hsel
    exact ⟨r.mnemonic.withFieldsOf w, by rw [← encode_withFieldsOf r hr hsel, decodeWord_encode,
      encode_withFieldsOf r hr hsel], mnemonic_withFieldsOf w r.mnemonic⟩
  · rintro ⟨i, hi, hm⟩
    obtain ⟨row, hrow, hrowm, hsel⟩ := encodesInRow i
    rw [encode_of_decodeWord hi] at hsel
    rwa [opTable_row_unique r hr row hrow (hm.symm.trans hrowm.symm)]

/-- Settles O30: the dispatch on the family, with what each family rejects. -/
theorem illegalWordsExhaustively : Obligations.IllegalWordsExhaustively := by
  intro w
  have hlt : w.toNat / 4096 < 16 := by omega
  simp only [decodeWord, fieldFamily_toNat]
  generalize w.toNat / 4096 = f at hlt ⊢
  interval_cases f <;> simp [decodeFamily0_illegal_iff, decodeFamily8_illegal_iff, decodeFamily9_illegal_iff,
    decodeFamilyE_illegal_iff, decodeFamilyF_illegal_iff]

/-- Settles O31: seven of the words are the words of their instructions; 0x9AB1 is of family 9 with low nibble 1. -/
theorem sampleWordsDecode : Obligations.SampleWordsDecode :=
  ⟨decodeWord_encode (.jp 0xFFF#12), decodeWord_encode (.sei 10 0x7F#8), decodeWord_encode (.sub 10 11),
    decodeFamily9_illegal_iff.2 (by decide), decodeWord_encode (.ldix 0x123#12), decodeWord_encode (.drw 1 2 5#4),
    decodeWord_encode (.sknp 1), decodeWord_encode (.ldm 1)⟩

/-- Settles O32: spelling and reading a line undo each other, on every instruction and on every well-formed line. -/
theorem assemblerSpellsEachInstruction : Obligations.AssemblerSpellsEachInstruction := by
  refine ⟨fun i => ⟨wellFormed_spell i, ?_⟩, fun l i h => ?_⟩
  · rw [assemble, if_pos (wellFormed_spell i), instrOfLine_spell]
  · obtain ⟨hwf, rfl⟩ := assemble_eq_some h
    exact (spell_instrOfLine hwf).symm

end Sys2Proof

/-! ## What an instruction and a step leave unchanged, and when a step is fatal -/

namespace Sys2Proof.Machine

/-! ### Frames -/

theorem SameBut.mono {ps qs : List Part} {s t : State} (h : SameBut ps s t) (hsub : ps ⊆ qs) : SameBut qs s t :=
  fun p hp => h p fun hmem => hp (hsub hmem)

/-- Writing the stack changes no other part of the state. -/
theorem sameBut_setStack (s : State) (l : List Word) : SameBut [.stack] s (s.setStack l) := by
  intro p hp
  cases p with
  | stack => exact absurd (List.mem_singleton_self _) hp
  | _ => simp [SamePart]

/-- Writing all registers changes no other part of the state. -/
theorem sameBut_setRegs (s : State) (regs : Vector Byte 16) : SameBut [.V] s (s.setRegs regs) := by
  intro p hp
  cases p with
  | V => exact absurd (List.mem_singleton_self _) hp
  | _ => simp [SamePart]

/-- Writing the display changes no other part of the state. -/
theorem sameBut_setDisplay (s : State) (g : Framebuffer) (q : List Delta) (c : Bool) :
    SameBut [.fb, .delta, .fullRedraw] s (s.setDisplay g q c) := by
  intro p hp
  cases p with
  | fb | delta | fullRedraw => exact absurd (by decide) hp
  | _ => simp [SamePart]

/-- A fatal error changes FAULT alone. -/
theorem sameBut_takeFatal (s : State) (k : FatalKind) (w : Word) : SameBut [.fault] s (takeFatal k w s) := by
  intro p hp
  cases p with
  | fault => exact absurd (List.mem_singleton_self _) hp
  | _ => simp [SamePart]

/-- Using up the inputs changes no other part of the state. -/
theorem sameBut_nextInput (s : State) : SameBut [.inputs] s s.nextInput := by
  intro p hp
  cases p with
  | inputs => exact absurd (List.mem_singleton_self _) hp
  | _ => simp [SamePart]

theorem sameBut_writeRegFlag (s : State) (x : Reg) (v flag : Byte) :
    SameBut [.V, .pc] s (s.writeRegFlag x v flag) :=
  ((sameBut_setV s x v).trans (sameBut_setV _ VF flag)).fallThrough.mono (by decide)

/-- A drawing changes the framebuffer and the queue, VF and pc; FULL_REDRAW is written back as it was. -/
theorem sameBut_applyCanvas (s : State) (c : Canvas) : SameBut [.V, .fb, .delta, .pc] s (s.applyCanvas c) := by
  intro p hp
  cases p with
  | fullRedraw => rfl
  | _ =>
    exact ((sameBut_setDisplay s c.fb c.delta s.fullRedraw).trans (sameBut_setV _ VF _)).fallThrough _
      (by revert hp; decide)

/-- SKP and SKNP change one latch and pc. -/
theorem sameBut_setKey_skipIf (s : State) (k : Fin 16) (c : Bool) :
    SameBut [.key, .pc] s ((s.setKey k false).skipIf c) :=
  (sameBut_setKey s k false).trans (sameBut_skipIf _ c)

/-- An instruction that falls through, having left pc alone before. -/
theorem pcPlus_fallThrough {s t : State} (h : t.pc = s.pc) : PcPlus 2 s t.fallThrough := by
  have hadvance := pcPlus_advance t 2
  rwa [PcPlus, h] at hadvance

/-! ### The parts that an instruction may change -/

/-- The parts of the state that an instruction may change. -/
def instrWrites : Instr → List Part
  | .cls => [.fb, .delta, .fullRedraw, .pc]
  | .ret | .call _ => [.stack, .pc, .fault]
  | .jp _ | .sei _ _ | .snei _ _ | .sne _ _ => [.pc]
  | .ldi _ _ | .addi _ _ | .mov _ _ | .and _ _ | .add _ _ | .sub _ _ | .shr _ _ | .rnd _ _ | .gdt _ | .ldm _ => [.V, .pc]
  | .ldix _ | .font _ => [.I, .pc]
  | .drw _ _ _ => [.V, .fb, .delta, .pc]
  | .skp _ | .sknp _ => [.key, .pc]
  | .sdt _ => [.timer, .pc]
  | .sst _ => [.sound, .pc]
  | .addix _ => [.V, .I, .pc]
  | .bcd _ => [.mem, .pc]

/-- Every instruction has a next state: no meaning stops (60_exceptions.md R268, R269). -/
theorem exec_total (i : Instr) (s : State) : ∃ t, exec i s = .next t := by
  cases i with
  | ret => obtain ⟨-, h⟩ | ⟨l, r, -, h⟩ := execRet_cases s <;> exact ⟨_, h⟩
  | call nnn => obtain ⟨-, h⟩ | ⟨-, h⟩ := execCall_cases nnn s <;> exact ⟨_, h⟩
  | _ => exact ⟨_, rfl⟩

/-- The frame of every instruction. -/
theorem exec_frame {i : Instr} {s t : State} (h : exec i s = .next t) : SameBut (instrWrites i) s t := by
  cases i with
  | ret =>
    obtain ⟨-, hr⟩ | ⟨l, r, -, hr⟩ := execRet_cases s <;> cases hr.symm.trans h
    · exact (sameBut_takeFatal s _ _).mono (by simp [instrWrites])
    · exact ((sameBut_setStack s l).trans (sameBut_setPc _ _)).mono (by simp [instrWrites])
  | call nnn =>
    obtain ⟨-, hc⟩ | ⟨-, hc⟩ := execCall_cases nnn s <;> cases hc.symm.trans h
    · exact (sameBut_takeFatal s _ _).mono (by simp [instrWrites])
    · exact ((sameBut_setStack s _).trans (sameBut_setPc _ _)).mono (by simp [instrWrites])
  | cls => cases h; exact (sameBut_setDisplay s _ _ _).fallThrough
  | jp nnn => cases h; exact sameBut_setPc s _
  | sei | snei | sne => cases h; exact sameBut_skipIf s _
  | ldi | addi | mov | and | rnd | gdt => cases h; exact sameBut_writeReg s _ _
  | add | sub | shr => cases h; exact sameBut_writeRegFlag s _ _ _
  | ldix | font => cases h; exact (sameBut_setI s _).fallThrough
  | drw => cases h; exact sameBut_applyCanvas s _
  | skp | sknp => cases h; exact sameBut_setKey_skipIf s _ _
  | sdt => cases h; exact (sameBut_setTimer s _ _).fallThrough
  | sst => cases h; exact (sameBut_setSt s _).fallThrough
  | addix => cases h; exact ((sameBut_setI s _).trans (sameBut_setV _ VF _)).fallThrough.mono (by simp [instrWrites])
  | bcd => cases h; exact (sameBut_setMem s _).fallThrough
  | ldm => cases h; exact (sameBut_setRegs s _).fallThrough

/-! ### What an instruction does to memory, I, the stack and FAULT -/

/-- R61: BCD alone stores. -/
theorem exec_mem {i : Instr} {s t : State} (h : exec i s = .next t) :
    t.mem = s.mem ∨ ∃ x, i = .bcd x ∧ t.mem = bcdMem s (s.getV x) := by
  cases i with
  | bcd x => cases h; exact .inr ⟨x, rfl, rfl⟩
  | ret => obtain ⟨-, hr⟩ | ⟨l, r, -, hr⟩ := execRet_cases s <;> cases hr.symm.trans h <;> exact .inl rfl
  | call nnn => obtain ⟨-, hc⟩ | ⟨-, hc⟩ := execCall_cases nnn s <;> cases hc.symm.trans h <;> exact .inl rfl
  | sei | snei | sne | skp | sknp => cases h; exact .inl (skipIf_mem _ _)
  | _ => cases h; exact .inl rfl

/-- R27, R28: what LDIX, ADDIX and FONT leave in I fits in 12 bits; no other instruction writes I. -/
theorem exec_index {i : Instr} {s t : State} (h : exec i s = .next t) :
    t.I = s.I ∨ (((∃ nnn, i = .ldix nnn) ∨ (∃ x, i = .addix x) ∨ ∃ x, i = .font x) ∧ t.I.toNat ≤ 0xFFF) := by
  cases i with
  | ldix nnn =>
    cases h
    refine .inr ⟨.inl ⟨nnn, rfl⟩, ?_⟩
    rw [fallThrough_I, setI_I, zextAddr_toNat]
    omega
  | addix x =>
    cases h
    refine .inr ⟨.inr (.inl ⟨x, rfl⟩), ?_⟩
    rw [fallThrough_I, setV_I, setI_I, addIndex_toNat]
    omega
  | font x =>
    cases h
    refine .inr ⟨.inr (.inr ⟨x, rfl⟩), ?_⟩
    rw [fallThrough_I, setI_I, glyphAddr_toNat]
    omega
  | _ => exact .inl (exec_frame h .I (by simp [instrWrites]))

/-- R29: CALL pushes its own address where the stack is not full, RET pops one entry; no other instruction writes the
stack. -/
theorem exec_stack {i : Instr} {s t : State} (h : exec i s = .next t) :
    t.stack = s.stack ∨
    ((∃ nnn, i = .call nnn) ∧ (∀ d, s.stackDepth = some d → s.stack.length < d) ∧ t.stack = s.stack ++ [s.pc]) ∨
    (i = .ret ∧ ∃ r, s.stack = t.stack ++ [r]) := by
  cases i with
  | call nnn =>
    obtain ⟨-, hc⟩ | ⟨hroom, hc⟩ := execCall_cases nnn s <;> cases hc.symm.trans h
    · exact .inl rfl
    · exact .inr (.inl ⟨⟨nnn, rfl⟩, hroom, rfl⟩)
  | ret =>
    obtain ⟨-, hr⟩ | ⟨l, r, hl, hr⟩ := execRet_cases s <;> cases hr.symm.trans h
    · exact .inl rfl
    · exact .inr (.inr ⟨rfl, r, hl⟩)
  | _ => exact .inl (exec_frame h .stack (by simp [instrWrites]))

/-- R261: the two fatal errors of an instruction, and what it leaves then; any other instruction leaves FAULT. -/
theorem exec_fault {i : Instr} {s t : State} (h : exec i s = .next t) :
    (i = .ret ∧ s.stack = [] ∧ t = takeFatal .stackUnderflow (encode i) s) ∨
    ((∃ nnn, i = .call nnn) ∧ s.stackFull = true ∧ t = takeFatal .stackOverflow (encode i) s) ∨
    (t.fault = s.fault ∧ (i = .ret → s.stack ≠ []) ∧ ((∃ nnn, i = .call nnn) → s.stackFull = false)) := by
  cases i with
  | ret =>
    obtain ⟨hempty, hr⟩ | ⟨l, r, hl, hr⟩ := execRet_cases s <;> cases hr.symm.trans h
    · exact .inl ⟨rfl, hempty, rfl⟩
    · exact .inr (.inr ⟨rfl, fun _ => by simp [hl], fun ⟨_, h⟩ => nomatch h⟩)
  | call nnn =>
    obtain ⟨hfull, hc⟩ | ⟨hroom, hc⟩ := execCall_cases nnn s <;> cases hc.symm.trans h
    · exact .inr (.inl ⟨⟨nnn, rfl⟩, (stackFull_eq_true s).2 hfull, rfl⟩)
    · exact .inr (.inr ⟨rfl, nofun, fun _ => (stackFull_eq_false s).2 hroom⟩)
  | _ => exact .inr (.inr ⟨exec_frame h .fault (by simp [instrWrites]), nofun, fun ⟨_, h⟩ => nomatch h⟩)

/-! ### When a step is fatal -/

/-- R30: a bounded stack that is full holds exactly STACK_DEPTH entries. -/
theorem stackFull_iff_of_bounded {s : State} (hbound : StackBounded s) :
    s.stackFull = true ↔ s.stackDepth = some s.stack.length := by
  rw [stackFull_eq_true]
  constructor
  · rintro ⟨d, hd, hle⟩
    rw [hd, Nat.le_antisymm hle (hbound d hd)]
  · exact fun h => ⟨_, h, le_rfl⟩

/-- The condition for a fatal error of a kind at the next step (60_exceptions.md R261). -/
def FatalWhen (s : State) : FatalKind → Prop
  | .unrecognizedOpcode => decodeWord s.fetchWord = .error (.illegal s.fetchWord)
  | .stackUnderflow => decodeWord s.fetchWord = .ok .ret ∧ s.stack = []
  | .stackOverflow => (∃ nnn, decodeWord s.fetchWord = .ok (.call nnn)) ∧ s.stackFull = true

/-- No two kinds of fatal error have their conditions met at once: the word decides which it can be. -/
theorem fatalWhen_unique {s : State} {k k' : FatalKind} (h : FatalWhen s k) (h' : FatalWhen s k') : k = k' := by
  cases k <;> cases k' <;> simp only [FatalWhen] at h h' <;> grind

/-- R123 to R125: a step of a machine that is not latched is fatal, with the fetched word and pc recorded and nothing else
changed, exactly where the condition of a kind holds; else FAULT stays clear. -/
theorem step_fatal_cases {s t : State} (hf : s.fault = none) (h : step s = .next t) :
    (t.fault = none ∧ ∀ k, ¬ FatalWhen s k) ∨
    ∃ k, FatalWhen s k ∧ t = (takeFatal k s.fetchWord s).nextInput := by
  obtain ⟨hlatched, -⟩ | ⟨-, ⟨e, he⟩, rfl⟩ | ⟨-, i, u, hi, hu, rfl⟩ := step_cases h
  · exact absurd hf hlatched
  · obtain rfl := decodeWord_error he
    exact .inr ⟨.unrecognizedOpcode, he, rfl⟩
  · have hword : encode i = s.fetchWord := encode_of_decodeWord hi
    obtain ⟨rfl, hempty, rfl⟩ | ⟨⟨nnn, rfl⟩, hfull, rfl⟩ | ⟨hsame, hret, hcall⟩ := exec_fault hu
    · exact .inr ⟨.stackUnderflow, ⟨hi, hempty⟩, by rw [hword]⟩
    · exact .inr ⟨.stackOverflow, ⟨⟨nnn, hi⟩, hfull⟩, by rw [hword]⟩
    · refine .inl ⟨hsame.trans hf, fun k hk => ?_⟩
      cases k with
      | unrecognizedOpcode => exact nomatch hi.symm.trans hk
      | stackUnderflow => exact hret (Except.ok.inj (hi.symm.trans hk.1)) hk.2
      | stackOverflow =>
        obtain ⟨⟨nnn, hk⟩, hfull⟩ := hk
        exact absurd hfull (by simp [hcall ⟨nnn, Except.ok.inj (hi.symm.trans hk)⟩])

/-- The kind that a step records is the one whose condition held. -/
theorem step_fault_kind_iff {s t : State} (hf : s.fault = none) (h : step s = .next t) (k : FatalKind) :
    (∃ r, t.fault = some r ∧ r.kind = k) ↔ FatalWhen s k := by
  obtain ⟨hnone, hno⟩ | ⟨k', hk', rfl⟩ := step_fatal_cases hf h
  · simp [hnone, hno k]
  · simp only [nextInput_fault, takeFatal_fault, Option.some.injEq, exists_eq_left']
    exact ⟨fun hk => hk ▸ hk', fatalWhen_unique hk'⟩

theorem step_total (s : State) : ∃ t, step s = .next t := by
  rw [step_eq_mapNext]
  unfold engineStep
  split
  · exact ⟨_, rfl⟩
  · split
    · exact ⟨_, rfl⟩
    · next i _ =>
      obtain ⟨t, ht⟩ := exec_total i s
      exact ⟨t.nextInput, by rw [ht]; rfl⟩

/-! ### The obligations about one step -/

/-- Settles O33: the fetch reads the two bytes as one word. -/
theorem stepRunsDecodedInstruction : Obligations.StepRunsDecodedInstruction := by
  intro s i hf hi
  have hfetch : s.fetch = .ok i := by rw [State.fetch, fetchWord_eq, hi]
  simp only [step_eq_mapNext, engineStep, hf, hfetch]

/-- Settles O34: the step takes the fatal error on the fetched word and uses up its inputs. -/
theorem illegalWordIsFatal : Obligations.IllegalWordIsFatal := by
  rintro s hf ⟨e, he⟩
  exact ⟨(illegalStep s).nextInput, step_of_illegal hf he, rfl, rfl,
    (sameBut_takeFatal s _ _).trans (sameBut_nextInput _)⟩

/-- Settles O36: no step touches the inputs but to use them up, and a step that is not Ok is a taken fatal error. -/
theorem everyStepCompletes : Obligations.EveryStepCompletes := by
  intro s
  obtain ⟨t, ht⟩ := step_total s
  have hinputs : t.inputs = s.inputs.tail ∧ t.inputIndex = s.inputIndex + 1 := by
    obtain ⟨-, rfl⟩ | ⟨-, -, rfl⟩ | ⟨-, i, u, -, hu, rfl⟩ := step_cases ht
    · exact ⟨rfl, rfl⟩
    · exact ⟨rfl, rfl⟩
    · obtain ⟨hin, hidx⟩ := exec_frame hu .inputs (by cases i <;> simp [instrWrites])
      rw [nextInput_inputs, nextInput_inputIndex, hin, hidx]
      exact ⟨rfl, rfl⟩
  refine ⟨t, ht, hinputs.1, hinputs.2, fun hf => ?_⟩
  obtain ⟨hnone, -⟩ | ⟨k, -, rfl⟩ := step_fatal_cases hf ht
  · exact .inl (by rw [State.outcome, hnone])
  · exact .inr ⟨_, rfl, rfl, rfl, (sameBut_takeFatal s k _).trans (sameBut_nextInput _)⟩

/-- Settles O37: the step records a kind exactly when its condition holds, and a bounded stack that is full holds exactly
STACK_DEPTH entries. -/
theorem fatalErrorsHappenExactlyWhen : Obligations.FatalErrorsHappenExactlyWhen := by
  intro s t hf hbound h
  refine ⟨step_fault_kind_iff hf h .unrecognizedOpcode, step_fault_kind_iff hf h .stackUnderflow, ?_⟩
  rw [step_fault_kind_iff hf h .stackOverflow, FatalWhen, stackFull_iff_of_bounded hbound]

end Sys2Proof.Machine

/-! ## The invariant, and what holds along every run -/

namespace Sys2Proof.Machine

/-! ### What keeps the invariant -/

/-- The invariant reads six parts of the state, so it holds of any state in which they are as before. -/
theorem Inv.congr {s t : State} (hs : Inv s) (hmem : t.mem = s.mem) (hindex : t.I = s.I) (hpc : t.pc = s.pc)
    (hstack : t.stack = s.stack) (hdepth : t.stackDepth = s.stackDepth) (hfault : t.fault = s.fault) : Inv t := by
  have hword : t.fetchWord = s.fetchWord := fetchWord_congr hpc fun a => by rw [State.readByte, hmem, State.readByte]
  refine ⟨hmem ▸ hs.mem, hindex ▸ hs.index, hdepth ▸ hs.depth, ?_, ?_⟩
  · simpa only [StackBounded, hstack, hdepth] using hs.stack
  · simpa only [FaultTruthful, hfault, hpc, hword, hstack, hdepth] using hs.fault

/-- A machine that is not latched has a truthful latch. -/
theorem faultTruthful_of_clear {s : State} (hf : s.fault = none) : FaultTruthful s := by
  intro r hr
  simp [hf] at hr

/-- The record of a fatal error whose condition holds is true of the state it freezes. -/
theorem faultTruthful_takeFatal {s : State} {k : FatalKind} (hbound : StackBounded s) (hk : FatalWhen s k) :
    FaultTruthful (takeFatal k s.fetchWord s) := by
  intro r hr
  cases hr
  refine ⟨rfl, rfl, ?_⟩
  cases k with
  | unrecognizedOpcode => exact hk
  | stackUnderflow => exact ⟨(encode_of_decodeWord hk.1).symm, hk.2⟩
  | stackOverflow => exact ⟨hk.1, (stackFull_iff_of_bounded hbound).1 hk.2⟩

/-- A fatal error whose condition holds keeps the invariant. -/
theorem Inv.takeFatal {s : State} {k : FatalKind} (hs : Inv s) (hk : FatalWhen s k) :
    Inv (takeFatal k s.fetchWord s) :=
  ⟨hs.mem, hs.index, hs.depth, hs.stack, faultTruthful_takeFatal hs.stack hk⟩

/-- CALL pushes only where the stack is not full, RET pops, and nothing else changes the stack. -/
theorem StackBounded.exec {i : Instr} {s t : State} (hs : StackBounded s) (h : exec i s = .next t) : StackBounded t := by
  intro d hd
  have hdepth : t.stackDepth = s.stackDepth := exec_frame h .depth (by cases i <;> simp [instrWrites])
  rw [hdepth] at hd
  obtain hsame | ⟨-, hroom, hpush⟩ | ⟨-, r, hpop⟩ := exec_stack h
  · exact hsame ▸ hs d hd
  · rw [hpush, List.length_append]
    exact hroom d hd
  · have hle := hs d hd
    rw [hpop, List.length_append] at hle
    exact Nat.le_of_succ_le hle

/-- An instruction that leaves FAULT clear keeps the invariant. -/
theorem Inv.exec {i : Instr} {s t : State} (hs : Inv s) (h : exec i s = .next t) (hf : t.fault = none) : Inv t where
  mem := by
    obtain hsame | ⟨x, -, hbcd⟩ := exec_mem h
    · exact hsame ▸ hs.mem
    · exact hbcd ▸ wf_bcdMem s hs.mem _
  index := by
    obtain hsame | ⟨-, hle⟩ := exec_index h
    · exact hsame ▸ hs.index
    · exact hle
  depth := by
    have hdepth : t.stackDepth = s.stackDepth := exec_frame h .depth (by cases i <;> simp [instrWrites])
    exact hdepth ▸ hs.depth
  stack := hs.stack.exec h
  fault := faultTruthful_of_clear hf

theorem Inv.nextInput {s : State} (hs : Inv s) : Inv s.nextInput := hs.congr rfl rfl rfl rfl rfl rfl

/-- Settles O49: a latched step changes nothing that the invariant reads, a fatal step records the truth, and any other
step is an instruction that keeps each part of the invariant. -/
theorem stepKeepsInvariant : Obligations.StepKeepsInvariant := by
  intro s t hs h
  by_cases hf : s.fault = none
  · obtain ⟨hclear, -⟩ | ⟨k, hk, rfl⟩ := step_fatal_cases hf h
    · obtain ⟨hlatched, -⟩ | ⟨-, -, rfl⟩ | ⟨-, i, u, -, hu, rfl⟩ := step_cases h
      · exact absurd hf hlatched
      · exact nomatch hclear
      · exact (hs.exec hu hclear).nextInput
    · exact (hs.takeFatal hk).nextInput
  · obtain ⟨-, rfl⟩ | ⟨hclear, -⟩ | ⟨hclear, -⟩ := step_cases h
    · exact hs.nextInput
    · exact absurd hclear hf
    · exact absurd hclear hf

theorem inv_applyHost {s : State} (hs : Inv s) (op : HostOp) : Inv (applyHost op s) := by
  cases op <;> exact hs.congr rfl rfl rfl rfl rfl rfl

/-- Every accepted reset meets the invariant. -/
theorem inv_resetState {p : Config.Params} (hp : p.wf = true) (program : List Byte) : Inv (resetState p program) where
  mem := wf_load (wf_load wf_nil _ _) _ _
  index := Nat.zero_le _
  depth := of_decide_eq_true hp
  stack := fun _ _ => Nat.zero_le _
  fault := faultTruthful_of_clear rfl

/-- Settles O51: the host writes no part that the invariant reads, and reset builds memory by loads alone. -/
theorem hostKeepsInvariant : Obligations.HostKeepsInvariant := by
  refine ⟨fun op s hs => inv_applyHost hs op, fun p program s hp h => ?_⟩
  by_cases hfit : program.length ≤ 3584
  · rw [resetWith_of_fits p hfit] at h
    cases h
    exact inv_resetState hp program
  · rw [resetWith_of_oversized p (Nat.lt_of_not_le hfit)] at h
    cases h

/-- The default font is what a blank memory reads as, so loading it leaves the blank memory. -/
theorem initialMem_default_nil : initialMem Config.params.font [] = [] := by decide

theorem resetState_default_nil : resetState Config.params [] = State.reset := by
  rw [resetState, initialMem_default_nil]
  rfl

/-- Settles O50: the state after reset is what the reset of the empty program leaves. -/
theorem resetMeetsInvariant : Obligations.ResetMeetsInvariant := by
  unfold Obligations.ResetMeetsInvariant
  rw [← resetState_default_nil]
  exact inv_resetState (by decide) []

/-- Settles O58: memory after reset is blank, which is the font table at 0x050 and zero elsewhere. -/
theorem resetValues : Obligations.ResetValues := by
  refine ⟨rfl, fun r => ?_, rfl, rfl, fun a ha => ?_, rfl, fbGet_blankFb, rfl, rfl, rfl, rfl, rfl, fun k => ?_, rfl, rfl, ?_⟩
  · exact Vector.getElem_replicate r.isLt
  · have hblank : State.reset.readByte a = Memory.blank a := congrArg Memory.blank (Nat.mod_eq_of_lt ha)
    rw [hblank]
    split
    · next h => exact if_pos h.1
    · next h => exact blank_eq_zero (by omega)
  · exact Vector.getElem_replicate k.isLt
  · rw [resetProgram, resetWith_of_fits _ (Nat.zero_le _), resetState_default_nil]

/-! ### Runs -/

/-- What holds at the start and is kept by every action holds at the end of a run. -/
theorem runActions_induction {P : State → Prop} (hact : ∀ a s t, P s → act a s = .next t → P t) {as : List Action}
    {s t : State} (hs : P s) (h : runActions as s = .next t) : P t := by
  induction as generalizing s with
  | nil => cases h; exact hs
  | cons a as ih =>
    unfold runActions at h
    split at h
    · next u hu => exact ih (hact a s u hs hu) h
    · cases h
    · cases h

/-- A latched machine run by actions that each keep FAULT and change only the listed parts. -/
theorem runActions_latched {ps : List Part} {r : Fatal} {as : List Action}
    (hact : ∀ a ∈ as, ∀ s, s.fault = some r → ∃ t, act a s = .next t ∧ t.fault = some r ∧ SameBut ps s t) {s : State}
    (hs : s.fault = some r) : ∃ t, runActions as s = .next t ∧ t.fault = some r ∧ SameBut ps s t := by
  induction as generalizing s with
  | nil =>
    exact ⟨s, rfl, hs, fun p _ => by cases p <;> simp [SamePart]⟩
  | cons a as ih =>
    obtain ⟨u, hu, huf, hsu⟩ := hact a (by simp) s hs
    obtain ⟨t, ht, htf, hut⟩ := ih (fun b hb => hact b (by simp [hb])) huf
    exact ⟨t, by rw [runActions, hu, ← ht], htf, (hsu.trans hut).mono (by simp)⟩

/-- R121: the step of a latched machine uses up its inputs and does nothing else. -/
theorem step_of_latched {s : State} {r : Fatal} (hs : s.fault = some r) : step s = .next s.nextInput := by
  simp only [step_eq_mapNext, engineStep, hs]
  rfl

/-- R240 to R243: a host operation changes only latches, the display's queue and flag, and the inputs. -/
theorem sameBut_applyHost (op : HostOp) (s : State) :
    SameBut [.delta, .fullRedraw, .key, .inputs] s (applyHost op s) := by
  cases op with
  | press k => exact (sameBut_setKey s k true).mono (by decide)
  | release k => exact (sameBut_setKey s k false).mono (by decide)
  | supply nowMs rnd =>
    intro p hp
    cases p with
    | inputs => exact absurd (by decide) hp
    | _ => simp [SamePart, applyHost]
  | drain =>
    intro p hp
    cases p with
    | delta | fullRedraw => exact absurd (by decide) hp
    | _ => simp [SamePart, applyHost, drain]

theorem applyHost_fault (op : HostOp) (s : State) : (applyHost op s).fault = s.fault :=
  sameBut_applyHost op s .fault (by decide)

/-- R263: no action clears the latch or changes a part that only a running step can change. -/
theorem act_of_latched (a : Action) {s : State} {r : Fatal} (hs : s.fault = some r) :
    ∃ t, act a s = .next t ∧ t.fault = some r ∧ SameBut [.delta, .fullRedraw, .key, .inputs] s t := by
  cases a with
  | host op => exact ⟨_, rfl, (applyHost_fault op s).trans hs, sameBut_applyHost op s⟩
  | step => exact ⟨_, step_of_latched hs, hs, (sameBut_nextInput s).mono (by decide)⟩

theorem outcome_of_fault {s : State} {r : Fatal} (hs : s.fault = some r) : s.outcome = .fatal r := by
  rw [State.outcome, hs]

/-- Settles O35: a latched step only uses up inputs, and a host operation never touches FAULT. -/
theorem latchedMachineStaysLatched : Obligations.LatchedMachineStaysLatched := by
  refine fun s r hs => ⟨fun k => ?_, fun as => ?_⟩
  · have hsteps : ∀ a ∈ List.replicate k Action.step, ∀ u : State, u.fault = some r →
        ∃ t, act a u = .next t ∧ t.fault = some r ∧ SameBut [.inputs] u t := by
      intro a ha u hu
      obtain rfl := List.eq_of_mem_replicate ha
      exact ⟨_, step_of_latched hu, hu, sameBut_nextInput u⟩
    obtain ⟨t, ht, htf, hst⟩ := runActions_latched hsteps hs
    exact ⟨t, ht, outcome_of_fault htf, hst⟩
  · obtain ⟨t, ht, htf, hst⟩ := runActions_latched (as := as) (fun a _ _ hu => act_of_latched a hu) hs
    exact ⟨t, ht, outcome_of_fault htf, hst⟩

/-- R7: no step changes STACK_DEPTH. -/
theorem step_stackDepth {s t : State} (h : step s = .next t) : t.stackDepth = s.stackDepth := by
  obtain ⟨-, rfl⟩ | ⟨-, -, rfl⟩ | ⟨-, i, u, -, hu, rfl⟩ := step_cases h
  · rfl
  · rfl
  · exact exec_frame hu .depth (by cases i <;> simp [instrWrites])

theorem act_stackDepth {a : Action} {s t : State} (h : act a s = .next t) : t.stackDepth = s.stackDepth := by
  cases a with
  | host op => cases h; exact sameBut_applyHost op s .depth (by decide)
  | step => exact step_stackDepth h

/-- R30: STACK_DEPTH is unbounded and no StackOverflow is recorded. -/
def NeverOverflowed (s : State) : Prop :=
  s.stackDepth = none ∧ ∀ r, s.fault = some r → r.kind ≠ .stackOverflow

theorem act_keeps_neverOverflowed (a : Action) (s t : State) (hs : NeverOverflowed s) (h : act a s = .next t) :
    NeverOverflowed t := by
  obtain ⟨hdepth, hkind⟩ := hs
  refine ⟨(act_stackDepth h).trans hdepth, ?_⟩
  cases a with
  | host op =>
    cases h
    exact (applyHost_fault op s).symm ▸ hkind
  | step =>
    intro r hr hover
    cases hf : s.fault with
    | some r' =>
      cases (step_of_latched hf).symm.trans h
      exact hkind r hr hover
    | none =>
      obtain ⟨-, hfull⟩ := (step_fault_kind_iff hf h .stackOverflow).1 ⟨r, hr, hover⟩
      simp [State.stackFull, hdepth] at hfull

/-- Settles O60: no action writes STACK_DEPTH, and an unbounded stack is never full. -/
theorem stackDepthIsFixed : Obligations.StackDepthIsFixed := by
  refine ⟨fun a s t => act_stackDepth, fun as s t hf hdepth h => ?_⟩
  obtain ⟨-, hkind⟩ := runActions_induction act_keeps_neverOverflowed ⟨hdepth, by simp [hf]⟩ h
  exact hkind

end Sys2Proof.Machine

/-! ## The stores of BCD and the block load -/

namespace Sys2Proof.Machine

/-- R61: the three stores of BCD leave every other byte alone. -/
theorem read_bcdMem_other (s : State) (v : Byte) {a : Nat} (h : ∀ k, k < 3 → memIndex a ≠ memIndex (s.dataAddr k)) :
    (bcdMem s v).read a = s.mem.read a := by
  unfold bcdMem
  rw [read_write_other _ (h 2 (by decide)), read_write_other _ (h 1 (by decide)), read_write_other _ (h 0 (by decide))]

/-- Two addresses less than a memory apart are two cells. -/
theorem memIndex_ne {a b : Nat} (hlt : a < b) (hnear : b < a + 4096) : memIndex a ≠ memIndex b := by
  simp only [memIndex, Config.memSize]
  omega

/-- R183: the byte at `I + k` after the three stores of BCD is the digit that goes there; the three are distinct cells. -/
theorem read_bcdMem_digit {s : State} (hm : s.mem.wf = true) (v : Byte) {a k : Nat} (hk : k < 3)
    (ha : memIndex a = memIndex (s.dataAddr k)) : (bcdMem s v).read a = bcdDigit v k := by
  have hne (j l : Nat) (hjl : j < l) (hl : l < 3) : memIndex (s.dataAddr j) ≠ memIndex (s.dataAddr l) :=
    memIndex_ne (Nat.add_lt_add_left hjl _) (by simp only [State.dataAddr]; omega)
  rw [read_bcdMem s hm, ha]
  interval_cases k
  · rw [if_neg (hne 0 2 (by decide) (by decide)), if_neg (hne 0 1 (by decide) (by decide)), if_pos rfl]
  · rw [if_neg (hne 1 2 (by decide) (by decide)), if_pos rfl]
  · rw [if_pos rfl]

theorem bcdDigit_hundreds (v : Byte) : (bcdDigit v 0).toNat = v.toNat / 100 := by
  simp only [bcdDigit, BitVec.toNat_ofNat]
  omega

theorem bcdDigit_tens (v : Byte) : (bcdDigit v 1).toNat = v.toNat / 10 % 10 := by
  simp only [bcdDigit, BitVec.toNat_ofNat]
  omega

theorem bcdDigit_ones (v : Byte) : (bcdDigit v 2).toNat = v.toNat % 10 := by
  simp only [bcdDigit, BitVec.toNat_ofNat]
  omega

/-- The state that BCD leaves. -/
def afterBcd (x : Reg) (s : State) : State := (s.setMem (bcdMem s (s.getV x))).fallThrough

theorem exec_bcd (x : Reg) (s : State) : exec (.bcd x) s = .next (afterBcd x s) := rfl

theorem readByte_afterBcd_digit {s : State} (hm : s.mem.wf = true) (x : Reg) {a k : Nat} (hk : k < 3)
    (ha : memIndex a = memIndex (s.dataAddr k)) : (afterBcd x s).readByte a = bcdDigit (s.getV x) k :=
  read_bcdMem_digit hm _ hk ha

/-- Settles O25: the three stores are to distinct cells, so each digit is read back and no other byte changes. -/
theorem storeDecimalDigitsRule : Obligations.StoreDecimalDigitsRule := by
  intro x
  refine ⟨?_, fun s hm => ⟨afterBcd x s, exec_bcd x s, fun a ha => ?_, fun a ha => ?_, fun a ha => ?_,
    fun a ha => read_bcdMem_other s _ ha, rfl, rfl, rfl, pcPlus_fallThrough rfl, exec_frame (exec_bcd x s)⟩⟩
  · rw [← decodeWord_encode (.bcd x), encode, encXNN_eq_ofNat_selectors_first]
    rfl
  · rw [readByte_afterBcd_digit hm x (by decide) ha, bcdDigit_hundreds]
  · rw [readByte_afterBcd_digit hm x (by decide) ha, bcdDigit_tens]
  · rw [readByte_afterBcd_digit hm x (by decide) ha, bcdDigit_ones]

/-- Settles O48: the two bytes of the next word are the first two that BCD stores. -/
theorem storeSeenByNextFetch : Obligations.StoreSeenByNextFetch := by
  intro x s hm hI
  have hpc : (afterBcd x s).pc.toNat % 4096 = s.I.toNat % 4096 := by
    show (s.pc + 2#16).toNat % 4096 = _
    rw [BitVec.toNat_add, BitVec.toNat_ofNat]
    omega
  have hhi : memIndex (afterBcd x s).pc.toNat = memIndex (s.dataAddr 0) := hpc
  have hlo : memIndex ((afterBcd x s).pc.toNat + 1) = memIndex (s.dataAddr 1) := by
    simp only [memIndex, Config.memSize, State.dataAddr]
    omega
  refine ⟨afterBcd x s, exec_bcd x s, ?_⟩
  rw [fetchWord_toNat, readByte_afterBcd_digit hm x (by decide) hhi, readByte_afterBcd_digit hm x (by decide) hlo,
    bcdDigit_hundreds, bcdDigit_tens]

/-- The state that LDM leaves. -/
def afterLdm (x : Reg) (s : State) : State := (s.setRegs (loadRegs s (x.val + 1))).fallThrough

theorem exec_ldm (x : Reg) (s : State) : exec (.ldm x) s = .next (afterLdm x s) := rfl

theorem getV_afterLdm (x k : Reg) (s : State) : (afterLdm x s).getV k = if k ≤ x then s.dataByte k else s.getV k := by
  show (loadRegs s (x.val + 1))[k] = _
  rw [Fin.getElem_fin, loadRegs_getElem]
  simp only [Nat.lt_succ_iff, Fin.le_def]
  rfl

/-- Settles O26: the block load replaces the registers up to x. -/
theorem loadRegistersRule : Obligations.LoadRegistersRule := by
  intro x
  refine ⟨?_, fun s => ⟨afterLdm x s, exec_ldm x s, fun k hk => ?_, fun k hk => ?_,
    pcPlus_fallThrough rfl, exec_frame (exec_ldm x s)⟩⟩
  · rw [← decodeWord_encode (.ldm x), encode, encXNN_eq_ofNat_selectors_first]
    rfl
  · rw [getV_afterLdm, if_pos hk]
    exact congrArg s.mem.lookup (memIndex_memIndex _).symm
  · rw [getV_afterLdm, if_neg (not_le.2 hk)]

/-! ### Canonical memories -/

/-- Only listed addresses can read as other than blank. -/
theorem le_of_lookup_ne_blank {low a : Nat} {m : Memory} (hm : Memory.wfFrom low m = true)
    (h : m.lookup a ≠ Memory.blank a) : low ≤ a :=
  not_lt.1 fun hlt => h (lookup_below hlt hm)

theorem lookup_cons_self (c : Host.Cell) (rest : Memory) : Memory.lookup (c :: rest) c.1 = c.2 := by
  simp [Memory.lookup]

theorem lookup_cons_ne {c : Host.Cell} {a : Nat} (h : c.1 ≠ a) (rest : Memory) :
    Memory.lookup (c :: rest) a = Memory.lookup rest a := by
  simp [Memory.lookup, h]

/-- The canonical form leaves no choice: what one list names does not read as blank, so the other names it too. -/
theorem wfFrom_ext {low low' : Nat} {m m' : Memory} (hm : Memory.wfFrom low m = true) (hm' : Memory.wfFrom low' m' = true)
    (h : ∀ a, a < Config.memSize → m.lookup a = m'.lookup a) : m = m' := by
  induction m generalizing low low' m' with
  | nil =>
    cases m' with
    | nil => rfl
    | cons c' rest' =>
      obtain ⟨⟨-, hc', hv'⟩, -⟩ := wfFrom_cons.1 hm'
      exact absurd ((lookup_cons_self c' rest').symm.trans (h c'.1 hc').symm) hv'
  | cons c rest ih =>
    obtain ⟨⟨-, hc, hv⟩, hrest⟩ := wfFrom_cons.1 hm
    have hread : Memory.lookup m' c.1 = c.2 := (h c.1 hc).symm.trans (lookup_cons_self c rest)
    cases m' with
    | nil => exact absurd hread.symm hv
    | cons c' rest' =>
      obtain ⟨⟨-, hc', hv'⟩, hrest'⟩ := wfFrom_cons.1 hm'
      have hread' : Memory.lookup (c :: rest) c'.1 = c'.2 := (h c'.1 hc').trans (lookup_cons_self c' rest')
      have haddr : c.1 = c'.1 := Nat.le_antisymm
        (le_of_lookup_ne_blank (wfFrom_cons.2 ⟨⟨le_rfl, hc, hv⟩, hrest⟩) (hread' ▸ hv'))
        (le_of_lookup_ne_blank (wfFrom_cons.2 ⟨⟨le_rfl, hc', hv'⟩, hrest'⟩) (hread ▸ hv))
      have hhead : c = c' := Prod.ext haddr (by rw [← hread, haddr, lookup_cons_self])
      subst hhead
      refine congrArg _ (ih hrest hrest' fun a ha => ?_)
      by_cases hne : c.1 = a
      · rw [lookup_below (by omega) hrest, lookup_below (by omega) hrest']
      · simpa only [lookup_cons_ne hne] using h a ha

/-- Settles O47: every address below 4096 is its own index, so the two lists look up alike. -/
theorem equalReadsMeanEqualMemories : Obligations.EqualReadsMeanEqualMemories := by
  intro m m' hm hm' h
  refine wfFrom_ext hm hm' fun a ha => ?_
  have hindex : memIndex a = a := Nat.mod_eq_of_lt ha
  simpa only [Memory.read, hindex] using h a

/-! ## Which instruction writes which part -/

/-- Settles O40: memory changes by the three stores of BCD alone. -/
theorem onlyBcdStoresToMemory : Obligations.OnlyBcdStoresToMemory := by
  intro i s t h a hne
  obtain hsame | ⟨x, rfl, hbcd⟩ := exec_mem h
  · exact absurd (congrArg (Memory.read · a) hsame) hne
  · refine ⟨⟨x, rfl⟩, ?_⟩
    by_contra hout
    push Not at hout
    refine hne ?_
    rw [State.readByte, hbcd, read_bcdMem_other s _ hout, State.readByte]

/-- Settles O41: an instruction that changes I is one of the three, and each leaves 12 bits. -/
theorem indexRegisterWriters : Obligations.IndexRegisterWriters :=
  fun _ _ _ h hne => (exec_index h).resolve_left hne

/-- Settles O42. -/
theorem stackUsers : Obligations.StackUsers := by
  intro i s t h hne
  obtain hsame | ⟨hcall, -, hpush⟩ | hpop := exec_stack h
  · exact absurd hsame hne
  · exact .inl ⟨hcall, hpush⟩
  · exact .inr hpop

/-- A flag is 0 or 1 (10_state.md R24). -/
theorem flagByte_zero_or_one (c : Bool) : flagByte c = 0 ∨ flagByte c = 1 := by cases c <;> simp [flagByte]

theorem getV_VF_writeRegFlag (s : State) (x : Reg) (v flag : Byte) : (s.writeRegFlag x v flag).getV VF = flag := by
  rw [getV_writeRegFlag, if_pos rfl]

/-- A write of an ordinary destination changes VF only where VF is the destination. -/
theorem eq_VF_of_getV_writeReg_ne {s : State} {x : Reg} {v : Byte} (h : (s.writeReg x v).getV VF ≠ s.getV VF) :
    x = VF := by
  by_contra hx
  exact h (by rw [getV_writeReg, if_neg (Ne.symm hx)])

/-- Settles O46: the five flag writers end with the write of VF, the ordinary destinations are register writes, and the
frame of the rest keeps every register. -/
theorem flagRegisterWriters : Obligations.FlagRegisterWriters := by
  intro i s t h
  cases i with
  | add | sub | shr =>
    cases h
    show State.getV (State.writeRegFlag _ _ _ _) VF = 0 ∨ _
    rw [getV_VF_writeRegFlag]
    exact flagByte_zero_or_one _
  | addix | drw =>
    cases h
    exact (getV_setV_self _ VF _).symm ▸ flagByte_zero_or_one _
  | ldi | addi | mov | and | rnd | gdt => cases h; exact eq_VF_of_getV_writeReg_ne
  | ldm x =>
    cases h
    intro hne
    by_contra hx
    exact hne ((getV_afterLdm x VF s).trans (if_neg fun hle => hx (le_antisymm (Fin.le_last x) hle)))
  | _ => exact exec_frame h .V (by simp [instrWrites])

/-! ### The program counter -/

theorem fallThrough_pc_toNat (s : State) : s.fallThrough.pc.toNat = (s.pc.toNat + 2) % 65536 := by
  rw [fallThrough_pc, BitVec.toNat_add]
  rfl

theorem skipIf_pc_toNat (s : State) (c : Bool) :
    (s.skipIf c).pc.toNat = (s.pc.toNat + if c = true then 4 else 2) % 65536 := by
  cases c <;> exact BitVec.toNat_add _ _

theorem skipIf_not_pc_toNat (s : State) (c : Bool) :
    (s.skipIf (!c)).pc.toNat = (s.pc.toNat + if c = true then 2 else 4) % 65536 := by
  cases c <;> exact BitVec.toNat_add _ _

/-- Settles O39: JP and CALL write the address, RET the popped value plus 2, a skip by its condition, the others fall
through. -/
theorem pcEffectOfEveryInstruction : Obligations.PcEffectOfEveryInstruction := by
  intro i s t hf h hok
  cases i with
  | jp nnn => cases h; exact zextAddr_toNat nnn
  | call nnn =>
    obtain ⟨-, hc⟩ | ⟨-, hc⟩ := execCall_cases nnn s <;> cases hc.symm.trans h
    · exact nomatch hok
    · exact zextAddr_toNat nnn
  | ret =>
    obtain ⟨-, hr⟩ | ⟨l, r, hl, hr⟩ := execRet_cases s <;> cases hr.symm.trans h
    · exact nomatch hok
    · simp [hl, BitVec.toNat_add]
  | sei | skp => cases h; exact (skipIf_pc_toNat _ _).trans (by simp)
  | snei | sne | sknp => cases h; exact (skipIf_not_pc_toNat _ _).trans (by simp)
  | _ => cases h; exact fallThrough_pc_toNat _

end Sys2Proof.Machine

/-! ## The words of the formats, as the rules write them -/

namespace Sys2Proof

section
variable {i : Instr} {f n : Nibble} {x y : Reg} {nn : Byte} {nnn : Addr} {base : Nat}

theorem decodeWord_NNN (h : encode i = encNNN f nnn) (hbase : f.toNat * 4096 = base) :
    decodeWord (BitVec.ofNat 16 (base + nnn.toNat)) = .ok i := by
  rw [← hbase, ← encNNN_eq_ofNat, ← h, decodeWord_encode]

theorem decodeWord_XNN (h : encode i = encXNN f x nn) (hbase : f.toNat * 4096 = base) :
    decodeWord (BitVec.ofNat 16 (base + x.val * 256 + nn.toNat)) = .ok i := by
  rw [← hbase, ← encXNN_eq_ofNat, ← h, decodeWord_encode]

theorem decodeWord_XFF (h : encode i = encXNN f x nn) (hbase : f.toNat * 4096 + nn.toNat = base) :
    decodeWord (BitVec.ofNat 16 (base + x.val * 256)) = .ok i := by
  rw [← hbase, ← encXNN_eq_ofNat_selectors_first, ← h, decodeWord_encode]

theorem decodeWord_XYF (h : encode i = encXYN f x y n) (hbase : f.toNat * 4096 + n.toNat = base) :
    decodeWord (BitVec.ofNat 16 (base + x.val * 256 + y.val * 16)) = .ok i := by
  rw [← hbase, ← encXYN_eq_ofNat_selectors_first, ← h, decodeWord_encode]

theorem decodeWord_XYN (h : encode i = encXYN f x y n) (hbase : f.toNat * 4096 = base) :
    decodeWord (BitVec.ofNat 16 (base + x.val * 256 + y.val * 16 + n.toNat)) = .ok i := by
  rw [← hbase, ← encXYN_eq_ofNat, ← h, decodeWord_encode]

end

end Sys2Proof

/-! ## The rules of single instructions -/

namespace Sys2Proof.Machine

/-- Settles O1: CLS is the write of the blank display, then the fall-through. -/
theorem clearScreenRule : Obligations.ClearScreenRule :=
  ⟨decodeWord_encode .cls, fun s => ⟨(s.setDisplay blankFb [] true).fallThrough, rfl, fbGet_blankFb, rfl, rfl,
    pcPlus_fallThrough rfl, exec_frame (i := .cls) rfl⟩⟩

/-! ### The call stack -/

theorem exec_ret_of_stack {s : State} {l : List Word} {r : Word} (h : s.stack = l ++ [r]) :
    exec .ret s = .next ((s.setStack l).setPc (r + 2#16)) := by
  simp [exec, execRet, h]

theorem exec_ret_of_empty {s : State} (h : s.stack = []) :
    exec .ret s = .next (takeFatal .stackUnderflow 0x00EE#16 s) := by
  simp [exec, execRet, h, encode]

theorem exec_call_of_room (nnn : Addr) {s : State} (h : ∀ d, s.stackDepth = some d → s.stack.length < d) :
    exec (.call nnn) s = .next ((s.setStack (s.stack ++ [s.pc])).setPc (zextAddr nnn)) := by
  simp [exec, execCall, (stackFull_eq_false s).2 h, pushed]

theorem exec_call_of_full (nnn : Addr) {s : State} (h : s.stackFull = true) :
    exec (.call nnn) s = .next (takeFatal .stackOverflow (encode (.call nnn)) s) := by
  simp [exec, execCall, h]

theorem sameBut_setStack_setPc (s : State) (l : List Word) (p : Word) :
    SameBut [.stack, .pc] s ((s.setStack l).setPc p) :=
  (sameBut_setStack s l).trans (sameBut_setPc _ p)

/-- Settles O2: the two cases of the stack. -/
theorem returnRule : Obligations.ReturnRule := by
  refine ⟨decodeWord_encode .ret, fun s l r h => ⟨_, exec_ret_of_stack h, rfl, ?_, sameBut_setStack_setPc s l _⟩,
    fun s h => ⟨_, exec_ret_of_empty h, rfl, sameBut_takeFatal s _ _⟩⟩
  rw [setPc_pc, BitVec.toNat_add]
  rfl

/-- Settles O4: the two cases of the test for a full stack. -/
theorem callRule : Obligations.CallRule := by
  intro nnn
  refine ⟨decodeWord_NNN (i := .call nnn) rfl rfl, fun s h => ⟨_, exec_call_of_room nnn h, rfl, zextAddr_toNat nnn,
    sameBut_setStack_setPc s _ _⟩, fun s h => ?_⟩
  have hfull : s.stackFull = true := (stackFull_eq_true s).2 ⟨_, h, le_rfl⟩
  refine ⟨_, exec_call_of_full nnn hfull, ?_, sameBut_takeFatal s _ _⟩
  rw [takeFatal_fault, encode, encNNN_eq_ofNat]
  rfl

/-- Settles O55: RET pops what CALL pushed. -/
theorem callThenReturnResumes : Obligations.CallThenReturnResumes := by
  intro nnn s h
  refine ⟨_, _, exec_call_of_room nnn h, exec_ret_of_stack rfl, ?_, ?_⟩
  · rw [setPc_pc, BitVec.toNat_add]
    rfl
  · intro p hp
    cases p with
    | pc => exact absurd (List.mem_singleton_self _) hp
    | stack => rfl
    | _ => simp [SamePart]

/-! ### Arithmetic with a flag -/

/-- What the write of a destination and then of the flag does, beside their values. -/
theorem writeRegFlag_rule (s : State) (x : Reg) (v flag : Byte) :
    SameRegsBut [x, VF] s (s.writeRegFlag x v flag) ∧ PcPlus 2 s (s.writeRegFlag x v flag) ∧
      SameBut [.V, .pc] s (s.writeRegFlag x v flag) := by
  refine ⟨fun r hr => ?_, pcPlus_fallThrough rfl, sameBut_writeRegFlag s x v flag⟩
  simp only [List.mem_cons, List.not_mem_nil, or_false, not_or] at hr
  rw [getV_writeRegFlag, if_neg hr.2, if_neg hr.1]

theorem getV_writeRegFlag_dest (s : State) {x : Reg} (hx : x ≠ VF) (v flag : Byte) :
    (s.writeRegFlag x v flag).getV x = v := by
  rw [getV_writeRegFlag, if_neg hx, if_pos rfl]

theorem carryFlag_toNat (a b : Byte) : (carryFlag a b).toNat = if a.toNat + b.toNat > 255 then 1 else 0 := by
  simp [carryFlag, flagByte_toNat]

theorem notBorrowFlag_toNat (a b : Byte) : (notBorrowFlag a b).toNat = if a.toNat < b.toNat then 0 else 1 := by
  rw [notBorrowFlag, flagByte_toNat]
  simp only [decide_eq_true_eq]
  split_ifs <;> omega

theorem shiftedOutFlag_toNat (a : Byte) : (shiftedOutFlag a).toNat = a.toNat % 2 := by
  rw [shiftedOutFlag, flagByte_toNat, ← BitVec.testBit_toNat, Nat.testBit_zero]
  have := Nat.mod_two_eq_zero_or_one a.toNat
  grind

theorem indexFlag_toNat (i : Word) (a : Byte) : (indexFlag i a).toNat = if i.toNat + a.toNat > 4095 then 1 else 0 := by
  simp [indexFlag, flagByte_toNat]

/-- Settles O11: ADD writes the sum's low byte, then the carry. -/
theorem addWithCarryRule : Obligations.AddWithCarryRule := by
  intro x y
  refine ⟨decodeWord_XYF (i := .add x y) rfl rfl, fun s => ⟨_, rfl, fun hx => ?_, ?_, writeRegFlag_rule s x _ _⟩⟩
  · rw [getV_writeRegFlag_dest s hx, addByte_toNat]
  · rw [getV_VF_writeRegFlag, carryFlag_toNat]

/-- Settles O12: SUB writes the difference's low byte, then the negated borrow. -/
theorem subtractWithNotBorrowRule : Obligations.SubtractWithNotBorrowRule := by
  intro x y
  refine ⟨decodeWord_XYF (i := .sub x y) rfl rfl, fun s => ⟨_, rfl, fun hx => ?_, ?_, writeRegFlag_rule s x _ _⟩⟩
  · rw [getV_writeRegFlag_dest s hx, subByte_toNat]
  · rw [getV_VF_writeRegFlag, notBorrowFlag_toNat]

/-- Settles O13: SHR writes the shifted byte, then the bit shifted out; its arm ignores y. -/
theorem shiftRightRule : Obligations.ShiftRightRule := by
  intro x y
  refine ⟨decodeWord_XYF (i := .shr x y) rfl rfl,
    fun s => ⟨_, rfl, fun _ => rfl, fun hx => ?_, ?_, writeRegFlag_rule s x _ _⟩⟩
  · rw [getV_writeRegFlag_dest s hx, BitVec.toNat_ushiftRight, Nat.shiftRight_eq_div_pow, pow_one]
  · rw [getV_VF_writeRegFlag, shiftedOutFlag_toNat]

/-- Settles O23: ADDIX writes I, then VF. -/
theorem addToIndexRule : Obligations.AddToIndexRule := by
  intro x
  refine ⟨decodeWord_XFF (i := .addix x) rfl rfl, fun s => ⟨_, rfl, addIndex_toNat _ _, ?_, fun r hr => ?_,
    pcPlus_fallThrough rfl, exec_frame (i := .addix x) rfl⟩⟩
  · rw [fallThrough_getV, getV_setV_self, indexFlag_toNat]
  · rw [fallThrough_getV, getV_setV_ne _ _ (List.ne_of_not_mem_cons hr), setI_getV]

/-! ### Ordinary destinations -/

/-- Settles O16: RND is the write of the masked random byte. -/
theorem randomByteRule : Obligations.RandomByteRule := by
  intro x nn
  refine ⟨decodeWord_XNN (i := .rnd x nn) rfl rfl, fun s => ⟨rnd_supply s, s.writeReg x (nn &&& s.rnd), rfl, fun k => ?_,
    sameRegsBut_writeReg s x _, pcPlus_writeReg s x _, sameBut_writeReg s x _⟩⟩
  rw [getV_writeReg_self, BitVec.getLsbD_and]

/-- Settles O20: GDT is the write of the timer's value, which fits in a byte. -/
theorem readDelayTimerRule : Obligations.ReadDelayTimerRule := by
  intro x
  refine ⟨decodeWord_XFF (i := .gdt x) rfl rfl, fun s => ⟨nowMs_supply s,
    s.writeReg x (BitVec.ofNat 8 (dtValue s.dtStart s.dtT0 s.nowMs)), rfl, ?_,
    sameRegsBut_writeReg s x _, pcPlus_writeReg s x _, sameBut_writeReg s x _⟩⟩
  rw [getV_writeReg_self, BitVec.toNat_ofNat, Nat.mod_eq_of_lt (dtValue_lt _ _ _)]
  rfl

/-- Settles O24: FONT writes the glyph address of the low nibble to I. -/
theorem glyphAddressRule : Obligations.GlyphAddressRule := by
  intro x
  refine ⟨decodeWord_XFF (i := .font x) rfl rfl, fun s => ⟨_, rfl, ?_, pcPlus_fallThrough rfl,
    exec_frame (i := .font x) rfl⟩⟩
  rw [fallThrough_I, setI_I, glyphAddr_toNat, lowNibble_val]

/-! ### The keypad -/

/-- What SKP and SKNP leave: the tested latch Up, the others as before, and a skip by the condition. -/
theorem keySkip_rule (s : State) (k : Fin 16) {c : Bool} {P Q : Prop} (htaken : P → c = true) (hnot : Q → c = false) :
    ((s.setKey k false).skipIf c).getKey k = false ∧
      (∀ j, j ≠ k → ((s.setKey k false).skipIf c).getKey j = s.getKey j) ∧
      (P → PcPlus 4 s ((s.setKey k false).skipIf c)) ∧ (Q → PcPlus 2 s ((s.setKey k false).skipIf c)) ∧
      SameBut [.key, .pc] s ((s.setKey k false).skipIf c) := by
  refine ⟨?_, fun j hj => ?_, fun hp => pcPlus_skipIf_taken (s.setKey k false) (htaken hp),
    fun hq => pcPlus_skipIf_not_taken (s.setKey k false) (hnot hq), sameBut_setKey_skipIf s k c⟩
  · rw [getKey_setKey_skipIf, if_pos rfl]
  · rw [getKey_setKey_skipIf, if_neg hj]

theorem keyIndex_eq {s : State} {x : Reg} {k : Fin 16} (hk : k.val = (s.getV x).toNat % 16) : s.keyIndex x = k :=
  Fin.ext (by rw [keyIndex_val, hk])

/-- Settles O18: SKP tests the latch of the low nibble for Down. -/
theorem skipIfKeyDownRule : Obligations.SkipIfKeyDownRule := by
  refine fun x => ⟨decodeWord_XFF (i := .skp x) rfl rfl, fun s k hk => ?_⟩
  obtain rfl := keyIndex_eq hk
  exact ⟨_, rfl, keySkip_rule s (s.keyIndex x) id id⟩

/-- Settles O19: SKNP tests the same latch for Up. -/
theorem skipIfKeyUpRule : Obligations.SkipIfKeyUpRule := by
  refine fun x => ⟨decodeWord_XFF (i := .sknp x) rfl rfl, fun s k hk => ?_⟩
  obtain rfl := keyIndex_eq hk
  exact ⟨_, rfl, keySkip_rule s (s.keyIndex x) (fun h => by rw [h]; rfl) (fun h => by rw [h]; rfl)⟩

/-- Settles O56: SKP leaves the latch it tests Up, so the same test fails the second time. -/
theorem keyPressConsumedOnce : Obligations.KeyPressConsumedOnce := by
  intro x s k hk
  obtain ⟨-, hskp⟩ := skipIfKeyDownRule x
  obtain ⟨t, ht, htup, -, htaken, -, htframe⟩ := hskp (press k s) k hk
  have hreg : t.getV x = s.getV x := htframe .V (by decide) x
  obtain ⟨u, hu, huup, -, -, hnot, -⟩ := hskp t k (by rw [hreg, hk])
  exact ⟨t, u, ht, hu, htaken (getKey_setKey_self s k true), hnot htup, htup, huup⟩

/-! ### The delay timer and the drain -/

/-- R221: the timer does not increase with time. -/
theorem dtValue_antitone (start : Byte) (t0 : Nat) : Antitone (dtValue start t0) := by
  intro n m hnm
  simp only [dtValue, dtTicks]
  omega

theorem dtValue_of_not_later (start : Byte) {t0 n : Nat} (h : n ≤ t0) : dtValue start t0 n = start.toNat := by
  simp [dtValue, dtTicks, Nat.sub_eq_zero_of_le h]

/-- R221: the ticks reach the start value by the ceiling of 1000 × start / 60 milliseconds. -/
theorem dtValue_of_elapsed {start : Byte} {t0 n : Nat} (h : t0 + (1000 * start.toNat + 59) / 60 ≤ n) :
    dtValue start t0 n = 0 := by
  simp only [dtValue, dtTicks]
  omega

/-- Settles O54: what GDT reads is the timer's value, which does not increase with time. -/
theorem delayTimerLaws : Obligations.DelayTimerLaws := by
  refine ⟨fun start t0 n => ⟨Nat.sub_le _ _, dtValue_of_not_later start, dtValue_of_elapsed⟩,
    fun x s u hstart ht0 hnow => ?_⟩
  obtain ⟨-, hgdt, -⟩ := timerTouchedOnlyBySdtAndGdt
  obtain ⟨t, ht, -, -, htv⟩ := hgdt x s
  obtain ⟨v, hv, -, -, hvv⟩ := hgdt x u
  refine ⟨t, v, ht, hv, ?_⟩
  rw [htv, hvv, hstart, ht0]
  exact dtValue_antitone _ _ hnow

/-- Settles O57: drain writes the queue and the flag, and the framebuffer as it was. -/
theorem drainRule : Obligations.DrainRule := by
  refine fun s => ⟨rfl, rfl, rfl, rfl, fun p hp => ?_, rfl⟩
  cases p with
  | delta | fullRedraw => exact absurd (by decide) hp
  | _ => simp [SamePart, drain]

end Sys2Proof.Machine

/-! ## What a sprite does to the display (44_display.md R203, R206) -/

namespace Sys2Proof.Machine

/-! ### A drawing as the flips of a list of pixels -/

/-- A pixel of the grid: column and row. -/
abbrev Pixel := Fin 64 × Fin 32

/-- The pixel at exact coordinates, where there is one (R204). -/
def toGrid (p : Nat × Nat) : Option Pixel :=
  if h : p.1 < 64 ∧ p.2 < 32 then some (⟨p.1, h.1⟩, ⟨p.2, h.2⟩) else none

theorem toGrid_eq_some {p : Nat × Nat} {q : Pixel} : toGrid p = some q ↔ p = (q.1.val, q.2.val) := by
  unfold toGrid
  constructor
  · split_ifs
    · rintro ⟨⟩
      rfl
    · simp
  · rintro rfl
    simp

/-- One flip inside the grid. -/
def flipAt (c : Canvas) (q : Pixel) : Canvas := flipPixel q.1 q.2 c

theorem foldl_flipPixel (ps : List (Nat × Nat)) (c : Canvas) :
    ps.foldl (fun c p => flipPixel p.1 p.2 c) c = (ps.filterMap toGrid).foldl flipAt c := by
  induction ps generalizing c with
  | nil => rfl
  | cons p ps ih =>
    rw [List.foldl_cons, ih]
    cases hp : toGrid p with
    | none =>
      have hout : ¬(p.1 < 64 ∧ p.2 < 32) := fun h => by simp [toGrid, h] at hp
      rw [flipPixel_outside hout, List.filterMap_cons_none hp]
    | some q =>
      rw [List.filterMap_cons_some hp, toGrid_eq_some.1 hp]
      rfl

/-- The exact coordinates of the sprite's 1 bits, in the order of the loops of R203. -/
def spriteBits (s : State) (x0 y0 n : Nat) : List (Nat × Nat) :=
  (List.range n).flatMap fun i =>
    ((List.range 8).filter fun j => (s.dataByte i).getLsbD (7 - j)).map fun j => (x0 + j, y0 + i)

theorem drawRows_eq_foldl (s : State) (x0 y0 n : Nat) (c : Canvas) :
    drawRows s x0 y0 n c = (spriteBits s x0 y0 n).foldl (fun c p => flipPixel p.1 p.2 c) c := by
  simp only [drawRows, drawRow, spriteBits, List.foldl_flatMap, List.foldl_map, List.foldl_filter]
  rfl

/-! ### The flipped pixels are the covered ones, in raster order -/

/-- The covered pixels row by row from the top, within a row from the left. -/
def coveredPixels (s : State) (x0 y0 n : Nat) : List Pixel :=
  (List.finRange 32).flatMap fun py => ((List.finRange 64).filter fun px => covers s x0 y0 n px py).map fun px => (px, py)

theorem mem_coveredPixels {s : State} {x0 y0 n : Nat} {q : Pixel} :
    q ∈ coveredPixels s x0 y0 n ↔ covers s x0 y0 n q.1 q.2 = true := by
  simp only [coveredPixels, List.mem_flatMap, List.mem_map, List.mem_filter, List.mem_finRange, true_and]
  constructor
  · rintro ⟨py, px, h, rfl⟩
    exact h
  · exact fun h => ⟨q.2, q.1, h, rfl⟩

theorem flipsOf_eq_map (s : State) (x0 y0 n : Nat) :
    flipsOf s x0 y0 n = (coveredPixels s x0 y0 n).map fun q => ⟨q.1, q.2, !fbGet s.fb q.1 q.2⟩ := by
  simp only [flipsOf, coveredPixels, List.map_flatMap, List.map_map]
  rfl

/-- Raster order on coordinates. -/
def rasterLt (p q : Nat × Nat) : Prop := p.2 < q.2 ∨ (p.2 = q.2 ∧ p.1 < q.1)

theorem pairwise_spriteBits (s : State) (x0 y0 n : Nat) : (spriteBits s x0 y0 n).Pairwise rasterLt := by
  refine List.pairwise_flatMap.2 ⟨fun i _ => ?_, List.pairwise_lt_range.imp fun hij => ?_⟩
  · refine List.pairwise_map.2 ((List.pairwise_lt_range.filter _).imp fun hjk => .inr ⟨rfl, ?_⟩)
    exact Nat.add_lt_add_left hjk x0
  · simp only [List.mem_map]
    rintro _ ⟨j, -, rfl⟩ _ ⟨k, -, rfl⟩
    exact .inl (Nat.add_lt_add_left hij y0)

/-- Raster order on pixels. -/
def pixelLt (p q : Pixel) : Prop := rasterLt (p.1.val, p.2.val) (q.1.val, q.2.val)

theorem pixelLt_irrefl : Std.Irrefl pixelLt :=
  ⟨fun p h => by simp [pixelLt, rasterLt] at h⟩

theorem pixelLt_antisymm : Std.Antisymm pixelLt := by
  refine ⟨fun p q hpq hqp => ?_⟩
  simp only [pixelLt, rasterLt] at hpq hqp
  omega

theorem pairwise_coveredPixels (s : State) (x0 y0 n : Nat) : (coveredPixels s x0 y0 n).Pairwise pixelLt := by
  refine List.pairwise_flatMap.2 ⟨fun py _ => ?_, (List.pairwise_lt_finRange 32).imp fun hij => ?_⟩
  · exact List.pairwise_map.2 (((List.pairwise_lt_finRange 64).filter _).imp fun hjk => .inr ⟨rfl, hjk⟩)
  · simp only [List.mem_map]
    rintro _ ⟨j, -, rfl⟩ _ ⟨k, -, rfl⟩
    exact .inl hij

theorem mem_filterMap_spriteBits {s : State} {x0 y0 n : Nat} {q : Pixel} :
    q ∈ (spriteBits s x0 y0 n).filterMap toGrid ↔ covers s x0 y0 n q.1 q.2 = true := by
  simp only [List.mem_filterMap, toGrid_eq_some, exists_eq_right, spriteBits, List.mem_flatMap, List.mem_range,
    List.mem_map, List.mem_filter, Prod.mk.injEq, covers, Bool.and_eq_true, decide_eq_true_eq]
  constructor
  · rintro ⟨i, hi, j, ⟨hj, hbit⟩, hx, hy⟩
    rw [← hx, ← hy, Nat.add_sub_cancel_left, Nat.add_sub_cancel_left]
    exact ⟨by omega, hbit⟩
  · rintro ⟨⟨hx, hx', hy, hy'⟩, hbit⟩
    exact ⟨q.2 - y0, by omega, q.1 - x0, ⟨by omega, hbit⟩, by omega, by omega⟩

/-- The loops of R203 flip the covered pixels in raster order: two lists in raster order with the same pixels. -/
theorem filterMap_spriteBits (s : State) (x0 y0 n : Nat) :
    (spriteBits s x0 y0 n).filterMap toGrid = coveredPixels s x0 y0 n := by
  have hirrefl := pixelLt_irrefl
  have hantisymm := pixelLt_antisymm
  refine List.Pairwise.eq_of_mem_iff (r := pixelLt) ?_ (pairwise_coveredPixels s x0 y0 n) fun q =>
    mem_filterMap_spriteBits.trans mem_coveredPixels.symm
  refine List.pairwise_filterMap.2 ((pairwise_spriteBits s x0 y0 n).imp fun {p q} hpq p' hp q' hq => ?_)
  rw [toGrid_eq_some.1 hp, toGrid_eq_some.1 hq] at hpq
  exact hpq

theorem nodup_coveredPixels (s : State) (x0 y0 n : Nat) : (coveredPixels s x0 y0 n).Nodup := by
  have hirrefl := pixelLt_irrefl
  exact (pairwise_coveredPixels s x0 y0 n).nodup

theorem drawRows_eq_flips (s : State) (x0 y0 n : Nat) (c : Canvas) :
    drawRows s x0 y0 n c = (coveredPixels s x0 y0 n).foldl flipAt c := by
  rw [drawRows_eq_foldl, foldl_flipPixel, filterMap_spriteBits]

/-! ### What a list of flips of different pixels leaves -/

theorem fbGet_flipAt (c : Canvas) (p q : Pixel) :
    fbGet (flipAt c p).fb q.1 q.2 = (fbGet c.fb q.1 q.2 ^^ decide (q = p)) := by
  rw [flipAt, flipPixel_inside, fbGet_fbSet]
  by_cases h : q = p
  · simp [h]
  · have h' : ¬(q.1 = p.1 ∧ q.2 = p.2) := fun e => h (Prod.ext e.1 e.2)
    simp [h, h']

/-- A flip leaves every pixel of a list that does not hold it. -/
theorem fbGet_flipAt_of_mem {ps : List Pixel} {p q : Pixel} (hp : p ∉ ps) (hq : q ∈ ps) (c : Canvas) :
    fbGet (flipAt c p).fb q.1 q.2 = fbGet c.fb q.1 q.2 := by
  have hne : q ≠ p := fun e => hp (e ▸ hq)
  simp [fbGet_flipAt, hne]

/-- Each listed pixel is negated, no other. -/
theorem fbGet_foldl_flipAt {ps : List Pixel} (hps : ps.Nodup) (c : Canvas) (q : Pixel) :
    fbGet (ps.foldl flipAt c).fb q.1 q.2 = (fbGet c.fb q.1 q.2 ^^ decide (q ∈ ps)) := by
  induction ps generalizing c with
  | nil => simp
  | cons p ps ih =>
    obtain ⟨hp, hps⟩ := List.nodup_cons.1 hps
    rw [List.foldl_cons, ih hps, fbGet_flipAt]
    by_cases h : q = p
    · simp [h, hp]
    · simp [h]

/-- The queue receives the listed pixels in order with their new states. -/
theorem delta_foldl_flipAt {ps : List Pixel} (hps : ps.Nodup) (c : Canvas) :
    (ps.foldl flipAt c).delta = c.delta ++ ps.map fun q => ⟨q.1, q.2, !fbGet c.fb q.1 q.2⟩ := by
  induction ps generalizing c with
  | nil => simp
  | cons p ps ih =>
    obtain ⟨hp, hps⟩ := List.nodup_cons.1 hps
    rw [List.foldl_cons, ih hps, List.map_congr_left fun q hq => by rw [fbGet_flipAt_of_mem hp hq]]
    simp [flipAt, flipPixel_inside]

/-- A collision is a listed pixel that was on. -/
theorem collision_foldl_flipAt {ps : List Pixel} (hps : ps.Nodup) (c : Canvas) :
    (ps.foldl flipAt c).collision = true ↔ c.collision = true ∨ ∃ q ∈ ps, fbGet c.fb q.1 q.2 = true := by
  induction ps generalizing c with
  | nil => simp
  | cons p ps ih =>
    obtain ⟨hp, hps⟩ := List.nodup_cons.1 hps
    have hrest : (∃ q ∈ ps, fbGet (flipAt c p).fb q.1 q.2 = true) ↔ ∃ q ∈ ps, fbGet c.fb q.1 q.2 = true :=
      exists_congr fun q => and_congr_right fun hq => by rw [fbGet_flipAt_of_mem hp hq]
    have hhead : (flipAt c p).collision = (c.collision || fbGet c.fb p.1 p.2) := by rw [flipAt, flipPixel_inside]
    rw [List.foldl_cons, ih hps, hrest, hhead, Bool.or_eq_true, or_assoc, List.exists_mem_cons_iff]

/-! ### The sprite -/

section
variable (s : State) (x0 y0 : Byte) (n : Nibble)

theorem drawSprite_eq_flips :
    drawSprite s x0 y0 n = (coveredPixels s x0.toNat y0.toNat n.toNat).foldl flipAt ⟨s.fb, s.delta, false⟩ :=
  drawRows_eq_flips s _ _ _ _

theorem fbGet_drawSprite (px : Fin 64) (py : Fin 32) :
    fbGet (drawSprite s x0 y0 n).fb px py =
      (fbGet s.fb px py ^^ covers s x0.toNat y0.toNat n.toNat px py) := by
  rw [drawSprite_eq_flips, fbGet_foldl_flipAt (nodup_coveredPixels _ _ _ _) _ (px, py)]
  simp [mem_coveredPixels]

theorem delta_drawSprite :
    (drawSprite s x0 y0 n).delta = s.delta ++ flipsOf s x0.toNat y0.toNat n.toNat := by
  rw [drawSprite_eq_flips, delta_foldl_flipAt (nodup_coveredPixels _ _ _ _), flipsOf_eq_map]

theorem collision_drawSprite :
    (drawSprite s x0 y0 n).collision = true ↔
      ∃ px py, covers s x0.toNat y0.toNat n.toNat px py = true ∧ fbGet s.fb px py = true := by
  rw [drawSprite_eq_flips, collision_foldl_flipAt (nodup_coveredPixels _ _ _ _)]
  simp [mem_coveredPixels]

end

/-! ### The state that DRW leaves -/

/-- The state that DRW leaves. -/
def afterDrw (x y : Reg) (n : Nibble) (s : State) : State := s.applyCanvas (drawSprite s (s.getV x) (s.getV y) n)

theorem exec_drw (x y : Reg) (n : Nibble) (s : State) : exec (.drw x y n) s = .next (afterDrw x y n s) := rfl

theorem afterDrw_delta (x y : Reg) (n : Nibble) (s : State) :
    (afterDrw x y n s).delta = s.delta ++ flipsOf s (s.getV x).toNat (s.getV y).toNat n.toNat :=
  delta_drawSprite s _ _ n

theorem fbGet_afterDrw (x y : Reg) (n : Nibble) (s : State) (px : Fin 64) (py : Fin 32) :
    fbGet (afterDrw x y n s).fb px py =
      (fbGet s.fb px py ^^ covers s (s.getV x).toNat (s.getV y).toNat n.toNat px py) :=
  fbGet_drawSprite s _ _ n px py

theorem sameRegsBut_applyCanvas (s : State) (c : Canvas) : SameRegsBut [VF] s (s.applyCanvas c) := fun _ hr =>
  getV_setV_ne _ _ (List.ne_of_not_mem_cons hr)

theorem getV_VF_applyCanvas (s : State) (c : Canvas) : (s.applyCanvas c).getV VF = collisionFlag c.collision :=
  getV_setV_self _ VF _

/-- R205: VF is 1 exactly when a covered pixel was on. -/
theorem getV_VF_afterDrw (x y : Reg) (n : Nibble) (s : State) :
    ((afterDrw x y n s).getV VF = 1 ∧
      ∃ px py, covers s (s.getV x).toNat (s.getV y).toNat n.toNat px py = true ∧ fbGet s.fb px py = true) ∨
    ((afterDrw x y n s).getV VF = 0 ∧
      ∀ px py, covers s (s.getV x).toNat (s.getV y).toNat n.toNat px py = true → fbGet s.fb px py = false) := by
  have hiff := collision_drawSprite s (s.getV x) (s.getV y) n
  rw [afterDrw, getV_VF_applyCanvas]
  cases hc : (drawSprite s (s.getV x) (s.getV y) n).collision with
  | true => exact .inl ⟨rfl, hiff.1 hc⟩
  | false =>
    refine .inr ⟨rfl, fun px py hcov => ?_⟩
    by_contra hon
    simp [hiff.2 ⟨px, py, hcov, by simpa using hon⟩] at hc

/-! ### The obligations -/

/-- Settles O17: the loops flip the covered pixels in raster order, each once. -/
theorem drawSpriteRule : Obligations.DrawSpriteRule := by
  intro x y n
  exact ⟨decodeWord_XYN (i := .drw x y n) rfl rfl, fun s => ⟨afterDrw x y n s, exec_drw x y n s, fbGet_afterDrw x y n s,
    getV_VF_afterDrw x y n s, afterDrw_delta x y n s, sameRegsBut_applyCanvas s _, pcPlus_fallThrough rfl,
    sameBut_applyCanvas s _⟩⟩

/-- Settles O43: CLS writes the blank display, DRW extends the queue by the covered pixels, and the frame of any other
instruction keeps all three parts. -/
theorem displayWriters : Obligations.DisplayWriters := by
  intro i s t h
  cases i with
  | cls =>
    cases h
    exact ⟨fun _ => .inl rfl, fun _ => .inl ⟨rfl, rfl⟩, fun _ => ⟨rfl, rfl⟩⟩
  | drw x y n =>
    cases h
    exact ⟨fun _ => .inr ⟨x, y, n, rfl⟩, fun _ => .inr ⟨⟨x, y, n, rfl⟩, _, afterDrw_delta x y n s⟩,
      fun hne => absurd rfl hne⟩
  | _ =>
    have hframe := exec_frame h
    exact ⟨fun hne => absurd (fb_ext (hframe .fb (by simp [instrWrites]))) hne,
      fun hne => absurd (hframe .delta (by simp [instrWrites])) hne,
      fun hne => absurd (hframe .fullRedraw (by simp [instrWrites])) hne⟩

/-- A sprite covers the same pixels wherever I and memory are the same. -/
theorem covers_congr {s t : State} (hI : t.I = s.I) (hm : ∀ a, t.readByte a = s.readByte a) (x0 y0 n : Nat)
    (px : Fin 64) (py : Fin 32) : covers t x0 y0 n px py = covers s x0 y0 n px py := by
  simp only [covers, State.dataByte, State.dataAddr, hI, hm]

/-- Settles O52: the second draw covers the same pixels, so each is negated twice; and a pixel that the first draw
turned on is on and covered at the second. -/
theorem spriteXorRoundTrip : Obligations.SpriteXorRoundTrip := by
  intro x y n s hx hy
  have hframe : SameBut [.V, .fb, .delta, .pc] s (afterDrw x y n s) := sameBut_applyCanvas s _
  have hregs : SameRegsBut [VF] s (afterDrw x y n s) := sameRegsBut_applyCanvas s _
  have hcov (px py) : covers (afterDrw x y n s) ((afterDrw x y n s).getV x).toNat ((afterDrw x y n s).getV y).toNat
      n.toNat px py = covers s (s.getV x).toNat (s.getV y).toNat n.toNat px py := by
    rw [hregs x (by simpa using hx), hregs y (by simpa using hy)]
    exact covers_congr (hframe .I (by decide)) (hframe .mem (by decide)) _ _ _ px py
  refine ⟨_, _, exec_drw x y n s, exec_drw x y n _, fb_ext fun px py => ?_, ?_⟩
  · rw [fbGet_afterDrw, hcov, fbGet_afterDrw, Bool.xor_assoc, Bool.xor_self, Bool.xor_false]
  · rintro ⟨px, py, hoff, hon⟩
    obtain ⟨hone, -⟩ | ⟨-, hoffs⟩ := getV_VF_afterDrw x y n (afterDrw x y n s)
    · exact hone
    · have hcovered : covers s (s.getV x).toNat (s.getV y).toNat n.toNat px py = true := by
        simpa [fbGet_afterDrw, hoff] using hon
      exact absurd hon (by rw [hoffs px py ((hcov px py).trans hcovered)]; decide)

/-- A sprite row has at most eight 1 bits. -/
theorem length_spriteBits_le (s : State) (x0 y0 n : Nat) : (spriteBits s x0 y0 n).length ≤ 8 * n := by
  rw [spriteBits, List.length_flatMap, Nat.mul_comm]
  refine (List.sum_le_card_nsmul _ 8 fun k hk => ?_).trans (by simp)
  obtain ⟨i, -, rfl⟩ := List.mem_map.1 hk
  rw [List.length_map]
  exact List.length_filter_le _ (List.range 8)

/-- R206: a sprite of `n` rows covers at most 8 × n pixels. -/
theorem length_coveredPixels_le (s : State) (x0 y0 n : Nat) : (coveredPixels s x0 y0 n).length ≤ 8 * n := by
  rw [← filterMap_spriteBits]
  exact (List.length_filterMap_le _ _).trans (length_spriteBits_le s x0 y0 n)

/-- Settles O53: the covered pixels are different, at most 8 in each of n rows, and each is negated once. -/
theorem spriteDeltasBounded : Obligations.SpriteDeltasBounded := by
  intro x y n s
  refine ⟨_, _, exec_drw x y n s, afterDrw_delta x y n s, ?_, ?_, ?_⟩
  · rw [flipsOf_eq_map, List.length_map]
    exact length_coveredPixels_le s _ _ _
  · rw [flipsOf_eq_map, List.map_map]
    exact (List.map_id _).symm ▸ nodup_coveredPixels s _ _ _
  · intro d hd
    obtain ⟨q, hq, rfl⟩ := List.mem_map.1 (flipsOf_eq_map s _ _ _ ▸ hd)
    rw [fbGet_afterDrw, mem_coveredPixels.1 hq, Bool.xor_true]

end Sys2Proof.Machine
